-- ==== Sys2Proof/Word.lean ====
section
/-! DEFINITION. The word types of the DmxSimple serial frame emitter: the byte of a channel slot, the line identity,
the command word, and the five kinds of encoded operation of spec/30_encoding.md. -/

namespace Sys2Proof

/-- One channel value, `SLOT_W` = 8 bits (00_scope.md R6). -/
abbrev Byte := BitVec 8

/-- A line identity, `LINE_W` = 16 bits, never interpreted by the block (00_scope.md R7, 10_state.md R27). -/
abbrev LineId := BitVec 16

/-- A command word, `CMD_W` = 34 bits: `op` 33:32, `a` 31:16, `v` 15:0 (30_encoding.md R74). -/
abbrev CmdWord := BitVec 34

/-- A line level: `true` is 1 (high, mark), `false` is 0 (low, space) (00_scope.md R11). -/
abbrev Level := Bool

/-- What an operation of spec/opcode_table.json is read from. Only a `command` is a word that the host presents; the
other four are the things the table's patterns of format SEQ, PRIM and EVENT range over (30_encoding.md R79). -/
inductive OpWord where
  /-- Format CMD: the 34 bits of `cmd_word`. -/
  | command (w : CmdWord)
  /-- Format SEQ: `FrameCursor[9:0]` when `Dispatch()` starts a transition. -/
  | cursor (c : BitVec 10)
  /-- Format PRIM, SENDBYTE: the 11 levels of a slot, the first period as the most significant bit. -/
  | slot (w : BitVec 11)
  /-- Format PRIM, SETLINE: the one-bit operand. -/
  | level (l : BitVec 1)
  /-- Format EVENT: the `tick` input of a period. -/
  | event (t : BitVec 1)
  deriving DecidableEq, Repr

end Sys2Proof
end

