-- ==== Sys2Proof/Config.lean ====
section
/-! DEFINITION. What an implementation of the block fixes: the constants of the source (00_scope.md R6), the
parameters of R7 with their defaults, the open parameters of R8, the values the inputs have in a period, and the free
values (constants without a body, of which no proof can know anything). -/

namespace Sys2Proof

namespace Config

/-- `N_CHANNELS` (00_scope.md R6). -/
abbrev nChannels : Nat := 512

/-- `START_BITS` (00_scope.md R6). -/
abbrev startBits : Nat := 1

/-- `DATA_BITS` (00_scope.md R6). -/
abbrev dataBits : Nat := 8

/-- `STOP_BITS` (00_scope.md R6). -/
abbrev stopBits : Nat := 2

/-- `SLOT_BITS`, the bit periods of one slot (00_scope.md R6). -/
abbrev slotBits : Nat := 11

/-- `BIT_RATE` in bit/s (00_scope.md R6, 30_encoding.md R73); no rule of the step reads it. -/
abbrev bitRate : Nat := 250000

/-- `T_BIT` in microseconds (00_scope.md R6, 70_reset_and_hazards.md R223); no rule of the step reads it. -/
abbrev bitPeriodMicros : Nat := 4

/-- `COUNT_W` and `CURSOR_W` (00_scope.md R9). -/
abbrev cursorWidth : Nat := 10

end Config

/-- The parameters of one implementation. Those of 00_scope.md R7 carry the value the spec takes as their default;
those of R8 but `CLKS_PER_BIT` have none. `LineValid` is a predicate on 16-bit values, held as the list of the values
that satisfy it. -/
structure Config where
  /-- `TICK_BITS`, the platform timer's period in bit periods (R8). -/
  tickBits : Nat
  /-- `LINE_RESET`, the value of OutputBinding after reset (R8). -/
  lineReset : LineId
  /-- `LineValid`: the line identities the platform can bind (R8). -/
  validLines : List LineId
  /-- `CLKS_PER_BIT` (R8); 1 is the value R13 lets a model take. -/
  clksPerBit : Nat := 1
  /-- `BREAK_BITS` (R7). -/
  breakBits : Nat := 22
  /-- `MAB_BITS` (R7). -/
  mabBits : Nat := 2
  /-- `BUDGET_NUM` (R7). -/
  budgetNum : Nat := 1
  /-- `BUDGET_DEN` (R7). -/
  budgetDen : Nat := 4
  deriving DecidableEq, Repr

/-- The values the four inputs `rst`, `cmd_valid`, `cmd_word` and `tick` have in one bit period (10_state.md R20). -/
structure Inputs where
  rst : Bool
  cmdValid : Bool
  cmdWord : CmdWord
  tick : Bool
  deriving DecidableEq, Repr, Inhabited

namespace Config

/-- The `TICK_BITS` of the machine that `State.reset` resets: open, so free (00_scope.md R8; log entry 2). -/
opaque platformTickBits : Nat

/-- The `LINE_RESET` of the machine that `State.reset` resets: open, so free (00_scope.md R8; log entry 2). -/
opaque platformLineReset : LineId

/-- The `LineValid` of the machine that `State.reset` resets: open, so free (00_scope.md R8; log entry 2). -/
opaque platformValidLines : List LineId

/-- `BUDGET_BITS` where `BUDGET_DEN` is 0, from the product `TICK_BITS × BUDGET_NUM`: the floor of 00_scope.md R9 has no
value there, so it is free (DESIGN CHOICE; log entry 16). -/
opaque budgetOverZero (product : Nat) : Nat

/-- What the host and the platform drive in bit period `n` where no input is written down in the state: free, since
both agents are unconstrained (00_scope.md section 7; log entry 3). -/
opaque environment (n : Nat) : Inputs

/-- The configuration of the machine that `State.reset` resets: the spec's values where it takes one (R7, R13), free
values where it takes none (R8). -/
def platform : Config where
  tickBits := platformTickBits
  lineReset := platformLineReset
  validLines := platformValidLines

end Config

end Sys2Proof
end

