-- ==== Sys2Proof/Syntax.lean ====
section
/-! DEFINITION. The operations of the block: one constructor for each of the nine rows of spec/opcode_table.json, in
the table's order, and the pseudo-commands of 30_encoding.md R81. -/

namespace Sys2Proof

/-- The operations of spec/opcode_table.json. Channel and value operands are integers, as 30_encoding.md R77 converts
them once, at decode. -/
inductive Instr where
  /-- WRITE channel, value (44_control_surface.md R157). -/
  | write (channel value : Int)
  /-- SETMAX channel (44_control_surface.md R159). -/
  | setmax (channel : Int)
  /-- SELLINE line (44_control_surface.md R160). -/
  | selline (line : LineId)
  /-- RSVD, the reserved code (44_control_surface.md R161). -/
  | rsvd
  /-- BREAK, the transition that FrameCursor = 0 selects (42_frame_sequencer.md R117). -/
  | brk
  /-- CHANNEL(k), the transition that FrameCursor = k selects (42_frame_sequencer.md R120). -/
  | channel (k : Nat)
  /-- SENDBYTE(b), the primitive that starts a slot (41_byte_transmitter.md R101). -/
  | sendbyte (b : Byte)
  /-- SETLINE(level), the primitive that drives the line (40_line_driver.md R90). -/
  | setline (level : Level)
  /-- TICK, a pulse of the `tick` input (43_scheduler.md R135). -/
  | tick
  deriving DecidableEq, Repr

namespace Instr

/-- Pseudo-command STOP (30_encoding.md R81). -/
abbrev stop : Instr := .setmax 0

/-- Pseudo-command START n (30_encoding.md R81). -/
abbrev start (n : Int) : Instr := .setmax n

/-- Pseudo-command NOP (30_encoding.md R81). -/
abbrev nop : Instr := .rsvd

end Instr

end Sys2Proof
end

