-- ==== Sys2Proof/WellFormed.lean ====
section
/-! DEFINITION. Which terms of `Instr` stand for an operation the encodings of spec/30_encoding.md can express. -/

namespace Sys2Proof

/-- The range of a 16-bit two's complement operand (30_encoding.md R77). -/
abbrev IsSint16 (x : Int) : Prop := -32768 ≤ x ∧ x ≤ 32767

/-- A well-formed operation: command operands in the range of R77, and a channel number that selects a slot of the
buffer (42_frame_sequencer.md R120, 20_memory.md R52). -/
def Instr.wellFormed : Instr → Bool
  | .write c v => decide (IsSint16 c ∧ IsSint16 v)
  | .setmax c => decide (IsSint16 c)
  | .channel k => decide (1 ≤ k ∧ k ≤ Config.nChannels)
  | .selline _ | .rsvd | .brk | .sendbyte _ | .setline _ | .tick => true

end Sys2Proof
end

