-- ==== Sys2Proof/Decode.lean ====
section
/-! DEFINITION. Decoding, total on every word, and the encoder written from the same tables of spec/30_encoding.md
(R70, R74 to R79). -/

namespace Sys2Proof

/-- Why a word stands for no operation. No command word is ever rejected (30_encoding.md R78). The rejections are the
model's choice (DESIGN CHOICE; log entry 5): the spec decodes no other word. -/
inductive DecodeError where
  /-- A FrameCursor value above 512, which the register never holds (10_state.md R31). -/
  | cursorOutOfRange
  /-- Eleven levels whose first period is high: no start bit (30_encoding.md R70). -/
  | noStartBit
  /-- Eleven levels whose last two periods are not both high: no stop bits (30_encoding.md R70). -/
  | noStopBits
  /-- The `tick` input is 0: there is no event (43_scheduler.md R135). -/
  | noPulse
  deriving DecidableEq, Repr

/-- `sint_16(v)` (00_scope.md R11). -/
def sint16 (v : BitVec 16) : Int :=
  if v.getLsbD 15 then (v.toNat : Int) - 65536 else v.toNat

/-- Field `op` of a command word (30_encoding.md R74). -/
def cmdOp (w : CmdWord) : BitVec 2 := w.extractLsb' 32 2

/-- Field `a` of a command word (30_encoding.md R74). -/
def cmdA (w : CmdWord) : BitVec 16 := w.extractLsb' 16 16

/-- Field `v` of a command word (30_encoding.md R74). -/
def cmdV (w : CmdWord) : BitVec 16 := w.extractLsb' 0 16

/-- The command a command word holds: total, since the four patterns partition all words (30_encoding.md R75, R76). -/
def decodeCommand (w : CmdWord) : Instr :=
  match (cmdOp w).toNat with
  | 0 => .write (sint16 (cmdA w)) (sint16 (cmdV w))
  | 1 => .setmax (sint16 (cmdA w))
  | 2 => .selline (cmdA w)
  | _ => .rsvd

/-- The transition a value of FrameCursor selects (42_frame_sequencer.md R116, 30_encoding.md R79). -/
def selectTransition (cursor : Nat) : Instr :=
  if cursor = 0 then .brk else .channel cursor

/-- The byte that the eleven levels of a slot carry: period j of the slot is bit 10 - j of the word, and data bit i is
in period i + 1 (30_encoding.md R70). -/
def slotByte (w : BitVec 11) : Byte :=
  BitVec.ofBoolListLE [w.getLsbD 9, w.getLsbD 8, w.getLsbD 7, w.getLsbD 6,
    w.getLsbD 5, w.getLsbD 4, w.getLsbD 3, w.getLsbD 2]

/-- The operation that eleven levels show, or why they show none (30_encoding.md R70). -/
def decodeSlot (w : BitVec 11) : Except DecodeError Instr :=
  if w.getLsbD 10 then .error .noStartBit
  else if w.getLsbD 1 && w.getLsbD 0 then .ok (.sendbyte (slotByte w))
  else .error .noStopBits

/-- The decoder: total on every word of every format, rejecting by name. -/
def decode : OpWord → Except DecodeError Instr
  | .command w => .ok (decodeCommand w)
  | .cursor c => if c.toNat ≤ Config.nChannels then .ok (selectTransition c.toNat) else .error .cursorOutOfRange
  | .slot w => decodeSlot w
  | .level l => .ok (.setline (l.getLsbD 0))
  | .event t => if t.getLsbD 0 then .ok .tick else .error .noPulse

/-! ## The encoder -/

/-- A command word from its fields (30_encoding.md R74). -/
def cmdWord (op : BitVec 2) (a v : BitVec 16) : CmdWord := (op ++ a ++ v : BitVec (2 + 16 + 16))

/-- The eleven levels of the slot that carries `b`, the first period as the most significant bit: start bit low, data
bits least significant first, two stop bits high (30_encoding.md R70). -/
def slotWord (b : Byte) : BitVec 11 :=
  BitVec.ofBoolListLE [true, true, b.getLsbD 7, b.getLsbD 6, b.getLsbD 5, b.getLsbD 4,
    b.getLsbD 3, b.getLsbD 2, b.getLsbD 1, b.getLsbD 0, false]

/-- The word of a well-formed operation; an ignored field of a command is 0, as an assembler puts it (30_encoding.md
R75). -/
def encode : Instr → OpWord
  | .write channel value => .command (cmdWord 0b00#2 (BitVec.ofInt 16 channel) (BitVec.ofInt 16 value))
  | .setmax channel => .command (cmdWord 0b01#2 (BitVec.ofInt 16 channel) 0#16)
  | .selline line => .command (cmdWord 0b10#2 line 0#16)
  | .rsvd => .command (cmdWord 0b11#2 0#16 0#16)
  | .brk => .cursor 0#10
  | .channel k => .cursor (BitVec.ofNat 10 k)
  | .sendbyte b => .slot (slotWord b)
  | .setline level => .level (BitVec.ofBool level)
  | .tick => .event 1#1

/-! ## Table rows and table words -/

/-- One row of spec/opcode_table.json of format CMD: a word `w` is that command exactly when
`w AND mask = pattern` (30_encoding.md R76). -/
structure CommandRow where
  mnemonic : String
  mask : CmdWord
  pattern : CmdWord
  deriving DecidableEq, Repr

/-- The four rows of format CMD (30_encoding.md R76). -/
def commandRows : List CommandRow :=
  [⟨"WRITE", 0x300000000#34, 0x000000000#34⟩, ⟨"SETMAX", 0x300000000#34, 0x100000000#34⟩,
   ⟨"SELLINE", 0x300000000#34, 0x200000000#34⟩, ⟨"RSVD", 0x300000000#34, 0x300000000#34⟩]

/-- The word is an instance of the row. -/
def CommandRow.covers (r : CommandRow) (w : CmdWord) : Bool := w &&& r.mask == r.pattern

/-- What a word of the table's numbering is read as, from its width in bits (the row's own, or whole bytes). Where rows
of different formats have words of one width in whole bytes, the row with the more fixed bits takes the word, as
30_encoding.md R79 says of BREAK and CHANNEL (log entry 5). -/
def tableWord (nbits w : Nat) : Option OpWord :=
  match nbits with
  | 34 | 40 => if w < 2 ^ 34 then some (.command (BitVec.ofNat 34 w)) else none
  | 10 => if w < 2 ^ 10 then some (.cursor (BitVec.ofNat 10 w)) else none
  | 11 => if w < 2 ^ 11 then some (.slot (BitVec.ofNat 11 w)) else none
  | 16 =>
    if w < 2 ^ 10 then
      if w % 4 = 3 then some (.slot (BitVec.ofNat 11 w)) else some (.cursor (BitVec.ofNat 10 w))
    else none
  | 1 | 8 => if w = 0 then some (.level 0#1) else if w = 1 then some (.event 1#1) else none
  | _ => none

/-- The operation the decoder reads from a word of the table's numbering; none where it refuses. -/
def decodeTableWord (nbits w : Nat) : Option Instr :=
  match tableWord nbits w with
  | some o => (decode o).toOption
  | none => none

end Sys2Proof
end

