-- ==== Sys2Proof/Machine/State.lean ====
section
/-! DEFINITION. The state of the block as plain data (spec/10_state.md), the reasons a step can stop, and the state
after reset. -/

namespace Sys2Proof
namespace Machine

/-- What part of a transition is under way (10_state.md R30). The codes 0 to 3 are visible at no port. -/
inductive Phase where
  /-- 0: no transition in flight. -/
  | idle
  /-- 1: the low interval of the break. -/
  | brk
  /-- 2: the mark after break. -/
  | mab
  /-- 3: a slot is being sent. -/
  | slot
  deriving DecidableEq, Repr

/-- ChannelBuffer as a list of (index, byte) pairs in one canonical form: indices strictly rising and below 512, and
no byte equal to 0, which an unlisted slot reads as (10_state.md R24 gives every slot the reset value 0). -/
abbrev Memory := List Host.Cell

/-- The state of the machine. `cfg`, `inputs` and `period` are the model's own: the parameters of the implementation,
which no rule writes, and the values the outside world drives (00_scope.md section 7 item 2: neither is state of the
block). All other fields are the registers of 10_state.md R34. -/
@[ext]
structure State where
  /-- The parameters of 00_scope.md R7 and R8 (the model's own field, log entry 1). -/
  cfg : Config
  /-- ChannelBuffer, 512 slots of 8 bits (R24). -/
  channelBuffer : Memory
  /-- ActiveChannelCount, 0 to 512, 10 bits (R25). -/
  activeChannelCount : Nat
  /-- EngineRunning, 1 bit (R26). -/
  engineRunning : Bool
  /-- FrameCursor, the program counter, 0 to ActiveChannelCount, 10 bits (R31). -/
  frameCursor : Nat
  /-- OutputBinding, 16 bits (R27). -/
  outputBinding : LineId
  /-- Budget, 0 to BUDGET_BITS (R29). -/
  budget : Nat
  /-- phase, 2 bits (R30). -/
  phase : Phase
  /-- cnt, the index of the bit period within the phase (R30). -/
  cnt : Nat
  /-- txbyte, 8 bits (R30). -/
  txbyte : Byte
  /-- tx, the output register, 1 bit (R32). -/
  tx : Level
  /-- baud_cnt, the divider from `clk` to bit periods (00_scope.md R13, 10_state.md R34). -/
  baudCnt : Nat
  /-- The number of bit periods since the state the run began in (the model's own field, log entry 3). -/
  period : Nat
  /-- The inputs of the current bit period and of those after it, as far as they are written down (the model's own
  field, log entry 3). -/
  inputs : List Inputs
  deriving DecidableEq, Repr

/-- The reasons the machine can stop. The block itself has none (60_exceptions.md R180). -/
inductive Fault where
  /-- Raised by `memRead` and `memWrite` for an index outside 0 to 511, where 20_memory.md R50 and R51 say the
  primitives are never invoked. No step from a state that meets the invariants of 10_state.md R36 raises it. Safe: the
  model stops where the spec has no behaviour. -/
  | noSuchSlot (index : Nat)
  deriving DecidableEq, Repr

/-- The reasons an operation has no meaning. -/
inductive Refusal where
  /-- Raised by `exec` for an operation that has no meaning yet; at present no arm does. Safe: the model stops. -/
  | notModelled (mnemonic : String)
  deriving DecidableEq, Repr

/-- The three outcomes of a step of this machine. -/
abbrev Result := Host.Outcome State Fault Refusal

/-- The state after reset of a block with the parameters `c`: the table of 10_state.md R34. No input is written down. -/
def State.resetWith (c : Config) : State where
  cfg := c
  channelBuffer := []
  activeChannelCount := 0
  engineRunning := false
  frameCursor := 0
  outputBinding := c.lineReset
  budget := 0
  phase := .idle
  cnt := 0
  txbyte := 0#8
  tx := true
  baudCnt := 0
  period := 0
  inputs := []

/-- The machine right after reset (10_state.md R34, 70_reset_and_hazards.md R211). -/
def State.reset : State := State.resetWith Config.platform

end Machine
end Sys2Proof
end

