-- ==== Sys2Proof/Machine/Flags.lean ====
section
/-! DEFINITION. The status signals and output ports, each a function of the state of the current period alone
(spec/10_state.md R21, R33). No operation sets a flag as a side effect of arithmetic. -/

namespace Sys2Proof
namespace Machine

/-- TickInFlight, the re-entrancy guard: the signal `phase ≠ IDLE`, no register (10_state.md R33). -/
def tickInFlight (s : State) : Bool := decide (s.phase ≠ .idle)

/-- The `cmd_ready` port: 1 exactly when `phase = IDLE` (44_control_surface.md R155). -/
def cmdReady (s : State) : Bool := decide (s.phase = .idle)

/-- The `tx` port (10_state.md R21). -/
def txPort (s : State) : Level := s.tx

/-- The `line_id` port (40_line_driver.md R94). -/
def lineId (s : State) : LineId := s.outputBinding

/-- `bit_tick`: the `clk` edge that ends this cycle is an edge of 00_scope.md R12 (00_scope.md R13). -/
def bitTick (s : State) : Bool := !decide (s.baudCnt + 1 < s.cfg.clksPerBit)

end Machine
end Sys2Proof
end

