-- ==== Sys2Proof/Machine/Operands.lean ====
section
/-! DEFINITION. The operand forms and the constants that operations compute with: the clamp, the levels of a slot, the
declared costs, the budget of a tick. -/

namespace Sys2Proof
namespace Machine

/-- `clamp8(x)`: the value is clamped at both ends, never truncated (44_control_surface.md R158). -/
def clamp8 (x : Int) : Byte :=
  if x < 0 then 0#8 else if 255 < x then 255#8 else BitVec.ofNat 8 x.toNat

/-- `1 ≤ channel ≤ 512`, the range check of WRITE (44_control_surface.md R157). -/
def channelInRange (channel : Int) : Bool := decide (1 ≤ channel ∧ channel ≤ 512)

/-- `channel − 1`, the effective index of WRITE, taken only where the channel is in range (44_control_surface.md R166). -/
def channelIndex (channel : Int) : Nat := (channel - 1).toNat

/-- `min(channel, 512)`, taken only where `1 ≤ channel` (44_control_surface.md R159, R165). -/
def saturateCount (channel : Int) : Nat := (min channel 512).toNat

/-- `slot_level(b, j)` (41_byte_transmitter.md R100). -/
def slotLevel (b : Byte) (j : Nat) : Level :=
  if j = 0 then false else if j ≤ 8 then b.getLsbD (j - 1) else true

/-- `START_CODE` (00_scope.md R6, 42_frame_sequencer.md R119). -/
def startCode : Byte := 0x00#8

/-- The index of the last bit period of a slot, `SLOT_BITS − 1` (41_byte_transmitter.md R103). -/
def lastSlotBit : Nat := 10

/-- `COST_BREAK` (42_frame_sequencer.md R123). -/
def costBreak : Nat := 35

/-- `COST_BYTE` (42_frame_sequencer.md R123). -/
def costByte : Nat := 11

/-- The declared cost of the transition that a cursor value selects (43_scheduler.md R137). -/
def cost (cursor : Nat) : Nat := if cursor = 0 then costBreak else costByte

/-- `BUDGET_BITS` (00_scope.md R9, 43_scheduler.md R136). Where `BUDGET_DEN` is 0, which `ConfigValid` excludes but
R10 still gives a behaviour, the quotient is a free value (DESIGN CHOICE; log entry 16). -/
def budgetBits (c : Config) : Nat :=
  if c.budgetDen = 0 then Config.budgetOverZero (c.tickBits * c.budgetNum)
  else c.tickBits * c.budgetNum / c.budgetDen

/-- `BREAK_DUR`, the true length of a BREAK transition in bit periods (00_scope.md R9). -/
def breakDur (c : Config) : Nat := c.breakBits + c.mabBits + Config.slotBits

/-- `BUDGET_W` (00_scope.md R9). -/
def budgetWidth (c : Config) : Nat := max 1 (Nat.clog 2 (budgetBits c + 1))

/-- `CNT_W` (00_scope.md R9). -/
def cntWidth (c : Config) : Nat := Nat.clog 2 (max c.breakBits (max c.mabBits Config.slotBits))

end Machine
end Sys2Proof
end

