-- ==== Sys2Proof/Machine/Ops.lean ====
section
/-! DEFINITION. The operations over memory and registers that the meanings share: the access primitives, the register
writes of each rule, the return of a tick, and the sequencing of outcomes. The block takes no exception
(60_exceptions.md R180); its one interrupt, the tick, is entered in Machine/Scheduler.lean. -/

namespace Sys2Proof
namespace Machine

/-- Run `f` on the state an outcome gives; a stop stays a stop. -/
def andThen (o : Result) (f : State → Result) : Result :=
  match o with
  | .next s => f s
  | .fault r => .fault r
  | .refused r => .refused r

/-- The state an outcome gives, if it gives one. -/
def nextState (o : Result) : Option State :=
  match o with
  | .next s => some s
  | .fault _ => none
  | .refused _ => none

/-! ## ChannelBuffer (20_memory.md) -/

/-- The canonical form of the buffer: indices rising strictly from `lo` on and below 512, no listed byte 0. -/
def bufferWfFrom (lo : Nat) : Memory → Bool
  | [] => true
  | (i, v) :: rest => decide (lo ≤ i) && decide (i < Config.nChannels) && decide (v ≠ 0#8) && bufferWfFrom (i + 1) rest

/-- The canonical form of the buffer. -/
def Memory.wf (m : Memory) : Bool := bufferWfFrom 0 m

/-- The byte at index `i`; an unlisted slot holds 0 (10_state.md R24). -/
def bufferRead : Memory → Nat → Byte
  | [], _ => 0#8
  | (j, v) :: rest, i => if i = j then v else bufferRead rest i

/-- A byte in front of a buffer, listed only if it is not 0. -/
def bufferCons (i : Nat) (v : Byte) (m : Memory) : Memory := if v = 0#8 then m else (i, v) :: m

/-- The buffer with index `i` holding `v`, in canonical form again. -/
def bufferWrite : Memory → Nat → Byte → Memory
  | [], i, v => bufferCons i v []
  | (j, w) :: rest, i, v =>
    if i < j then bufferCons i v ((j, w) :: rest)
    else if i = j then bufferCons i v rest
    else (j, w) :: bufferWrite rest i v

/-- `MemRead(i, 1)`: no side effect (20_memory.md R50). -/
def memRead (s : State) (i : Nat) : Except Fault Byte :=
  if i < Config.nChannels then .ok (bufferRead s.channelBuffer i) else .error (.noSuchSlot i)

/-- `MemWrite(i, 1, v)`: the slot is replaced as a whole and no other slot changes (20_memory.md R51). -/
def memWrite (s : State) (i : Nat) (v : Byte) : Except Fault State :=
  if i < Config.nChannels then .ok { s with channelBuffer := bufferWrite s.channelBuffer i v }
  else .error (.noSuchSlot i)

/-! ## Register writes -/

/-- `SETLINE(level)`: `tx ← level` (40_line_driver.md R90). -/
def setLine (level : Level) (s : State) : State := { s with tx := level }

/-- `cnt ← n`. -/
def setCnt (n : Nat) (s : State) : State := { s with cnt := n }

/-- `phase ← p; cnt ← 0`: the first period of a phase. -/
def enterPhase (p : Phase) (s : State) : State := { s with phase := p, cnt := 0 }

/-- `txbyte ← b`. -/
def latchByte (b : Byte) (s : State) : State := { s with txbyte := b }

/-- `Budget ← n`. -/
def setBudget (n : Nat) (s : State) : State := { s with budget := n }

/-- `ActiveChannelCount ← n`. -/
def setCount (n : Nat) (s : State) : State := { s with activeChannelCount := n }

/-- `OutputBinding ← line`. -/
def bindLine (line : LineId) (s : State) : State := { s with outputBinding := line }

/-- `EngineStart()` (44_control_surface.md R162). -/
def engineStart (s : State) : State := { s with engineRunning := true, frameCursor := 0 }

/-- `EngineStop()`: the flag and nothing else (44_control_surface.md R163). -/
def engineStop (s : State) : State := { s with engineRunning := false }

/-- `if EngineRunning = 0 then EngineStart()` (44_control_surface.md R157, R159). -/
def ensureRunning (s : State) : State := if s.engineRunning then s else engineStart s

/-- `Normalise()` (42_frame_sequencer.md R122). -/
def normalise (s : State) : State :=
  { s with frameCursor := if s.frameCursor > s.activeChannelCount then 0 else s.frameCursor }

/-- The cursor after the transition it selects has ended (42_frame_sequencer.md R121). -/
def nextCursor (count cursor : Nat) : Nat := if cursor + 1 > count then 0 else cursor + 1

/-- Cursor advance and wrap at the edge that ends a transition (42_frame_sequencer.md R121). -/
def advanceCursor (s : State) : State :=
  { s with frameCursor := nextCursor s.activeChannelCount s.frameCursor }

/-- The return of a tick: `phase ← IDLE; cnt ← 0`, which re-enables `tick` and the command port and restores nothing
else (43_scheduler.md R137, R139, 60_exceptions.md R185). -/
def tickReturn (s : State) : State := enterPhase .idle s

/-- The effect of an edge that sees `rst = 1`: every register takes its reset value; the parameters and the outside
world are not registers (10_state.md R34, 70_reset_and_hazards.md R210). -/
def resetRegisters (s : State) : State :=
  { State.resetWith s.cfg with period := s.period, inputs := s.inputs }

/-! ## The outside world and time -/

/-- The inputs of the `j`-th bit period from the current one: those written down, and past them the free environment
(log entry 3). -/
def inputAt (s : State) (j : Nat) : Inputs := (s.inputs[j]?).getD (Config.environment (s.period + j))

/-- The inputs of the current bit period. -/
def inputNow (s : State) : Inputs := inputAt s 0

/-- The edge that ends a bit period: the divider starts again and the next period's inputs are current (00_scope.md
R12, R13). -/
def nextPeriod (s : State) : State :=
  { s with baudCnt := 0, period := s.period + 1, inputs := s.inputs.tail }

/-- One more `clk` cycle inside a bit period: no register but the divider changes (00_scope.md R13). -/
def countClk (s : State) : State := { s with baudCnt := s.baudCnt + 1 }

end Machine
end Sys2Proof
end

