-- ==== Sys2Proof/Machine/Control.lean ====
section
/-! DEFINITION. The Channel Buffer and Control Surface: WRITE, SETMAX, SELLINE, RSVD (spec/44_control_surface.md).
Each is executed whole: its own assignments, then `Normalise()` (R156, R164). -/

namespace Sys2Proof
namespace Machine

/-- WRITE channel, value: starts a stopped engine first, whatever the channel; in range, stores the clamped value and
grows the count; out of range, neither (44_control_surface.md R157). -/
def execWrite (channel value : Int) (s : State) : Result :=
  if channelInRange channel then
    match memWrite (ensureRunning s) (channelIndex channel) (clamp8 value) with
    | .ok t => .next (normalise (setCount (max t.activeChannelCount channel.toNat) t))
    | .error f => .fault f
  else .next (normalise (ensureRunning s))

/-- SETMAX channel: stop and clear the count, or set the count, saturated, and start (44_control_surface.md R159). -/
def execSetmax (channel : Int) (s : State) : Result :=
  if channel ≤ 0 then .next (normalise (setCount 0 (engineStop s)))
  else .next (normalise (ensureRunning (setCount (saturateCount channel) s)))

/-- SELLINE line: rebind, stopping a running engine before and restarting it after (44_control_surface.md R160). -/
def execSelline (line : LineId) (s : State) : Result :=
  if s.engineRunning then .next (normalise (engineStart (bindLine line (engineStop s))))
  else .next (normalise (bindLine line s))

/-- RSVD: accepted, and no assignment of its own (44_control_surface.md R161). -/
def execRsvd (s : State) : Result := .next (normalise s)

end Machine
end Sys2Proof
end

