-- ==== Sys2Proof/Machine/LineDriver.lean ====
section
/-! DEFINITION. The Output Line Driver: SETLINE (spec/40_line_driver.md). -/

namespace Sys2Proof
namespace Machine

/-- SETLINE(level): sets `tx` and writes nothing else (40_line_driver.md R90). -/
def execSetline (level : Level) (s : State) : Result := .next (setLine level s)

end Machine
end Sys2Proof
end

