-- ==== Sys2Proof/Machine/ByteTransmitter.lean ====
section
/-! DEFINITION. The Bit-Exact Byte Transmitter: SENDBYTE and the edges inside a slot (spec/41_byte_transmitter.md). -/

namespace Sys2Proof
namespace Machine

/-- SENDBYTE(b) at the edge that starts the slot: `phase ← SLOT; cnt ← 0; txbyte ← b; SETLINE(slot_level(b, 0))`
(41_byte_transmitter.md R101). -/
def execSendbyte (b : Byte) (s : State) : Result :=
  execSetline (slotLevel b 0) (latchByte b (enterPhase .slot s))

/-- Slot advance: `cnt ← cnt + 1; SETLINE(slot_level(txbyte, cnt + 1))` (41_byte_transmitter.md R102). -/
def slotAdvance (s : State) : Result :=
  execSetline (slotLevel s.txbyte (s.cnt + 1)) (setCnt (s.cnt + 1) s)

end Machine
end Sys2Proof
end

