-- ==== Sys2Proof/Machine/Sequencer.lean ====
section
/-! DEFINITION. The Frame State Machine: BREAK, CHANNEL and the edges inside a break and a mark
(spec/42_frame_sequencer.md). -/

namespace Sys2Proof
namespace Machine

/-- BREAK at the edge at which `Dispatch()` starts it: `phase ← BRK; cnt ← 0; SETLINE(0)` (42_frame_sequencer.md
R117). The edges that follow are `breakEdge`, `markEdge` and those of the start code's slot. -/
def execBrk (s : State) : Result := execSetline false (enterPhase .brk s)

/-- An edge inside the break: count, or end the break and raise the line (42_frame_sequencer.md R117). -/
def breakEdge (s : State) : Result :=
  if s.cnt + 1 < s.cfg.breakBits then .next (setCnt (s.cnt + 1) s)
  else execSetline true (enterPhase .mab s)

/-- An edge inside the mark after break: count, or send the start code (42_frame_sequencer.md R118, R119). -/
def markEdge (s : State) : Result :=
  if s.cnt + 1 < s.cfg.mabBits then .next (setCnt (s.cnt + 1) s)
  else execSendbyte startCode s

/-- CHANNEL(k) at the edge at which `Dispatch()` starts it: `SENDBYTE(MemRead(k − 1, 1))` (42_frame_sequencer.md
R120). -/
def execChannel (k : Nat) (s : State) : Result :=
  if k = 0 then .fault (.noSuchSlot k)
  else match memRead s (k - 1) with
    | .ok b => execSendbyte b s
    | .error f => .fault f

end Machine
end Sys2Proof
end

