-- ==== Sys2Proof/Machine/Scheduler.lean ====
section
/-! DEFINITION. The Time-Budgeted Scheduler: `Dispatch()` and TICK, the block's one interrupt (spec/43_scheduler.md,
spec/60_exceptions.md R183 to R185). -/

namespace Sys2Proof
namespace Machine

/-- Start the transition FrameCursor selects (42_frame_sequencer.md R116). -/
def startTransition (s : State) : Result :=
  if s.frameCursor = 0 then execBrk s else execChannel s.frameCursor s

/-- `Dispatch()`: charge the declared cost and start the transition if it fits, else the tick returns
(43_scheduler.md R137). -/
def dispatch (s : State) : Result :=
  if cost s.frameCursor ≤ s.budget then startTransition (setBudget (s.budget - cost s.frameCursor) s)
  else .next (tickReturn s)

/-- Entry of an accepted tick: `Budget ← BUDGET_BITS; Dispatch()`. It saves nothing and changes no mode
(43_scheduler.md R136, 60_exceptions.md R184). -/
def tickEntry (s : State) : Result := dispatch (setBudget (budgetBits s.cfg) s)

/-- A pulse of `tick` is accepted exactly when no transition is in flight and the engine runs (43_scheduler.md R135). -/
def tickAccepted (s : State) : Bool := decide (s.phase = .idle) && s.engineRunning

/-- TICK: an accepted pulse enters the tick, any other has no effect whatever and is not remembered (43_scheduler.md
R135, R140). -/
def execTick (s : State) : Result := if tickAccepted s then tickEntry s else .next s

end Machine
end Sys2Proof
end

