-- ==== Sys2Proof/Machine/Dispatch.lean ====
section
/-! DEFINITION. The meaning of each operation, one arm per row of spec/opcode_table.json. -/

namespace Sys2Proof.Machine

/-- What an operation does to a state when the block invokes it. -/
def exec (i : Instr) (s : State) : Host.Outcome State Fault Refusal :=
  match i with
  | .write channel value => Sys2Proof.Machine.execWrite channel value s
  | .setmax channel => Sys2Proof.Machine.execSetmax channel s
  | .selline line => Sys2Proof.Machine.execSelline line s
  | .rsvd => Sys2Proof.Machine.execRsvd s
  | .brk => Sys2Proof.Machine.execBrk s
  | .channel k => Sys2Proof.Machine.execChannel k s
  | .sendbyte b => Sys2Proof.Machine.execSendbyte b s
  | .setline level => Sys2Proof.Machine.execSetline level s
  | .tick => Sys2Proof.Machine.execTick s

end Sys2Proof.Machine
end

