-- ==== Sys2Proof/Machine/Edge.lean ====
section
/-! DEFINITION. What one edge does (spec/43_scheduler.md R146), what one `clk` cycle does (00_scope.md R13), and how a
state is prepared so that its next step runs a given operation. -/

namespace Sys2Proof
namespace Machine

/-- The command a period's inputs present, if they present one (44_control_surface.md R155; the test of `cmd_ready` is
the phase's, R146). -/
def presentedCommand (i : Inputs) : Option Instr := if i.cmdValid then some (decodeCommand i.cmdWord) else none

/-- Step 1 of R146 in an idle period: execute the presented command, which normalises (44_control_surface.md R156). -/
def commandEdge (i : Inputs) (s : State) : Result :=
  match presentedCommand i with
  | some c => exec c s
  | none => .next s

/-- Step 2 of R146: a `tick` pulse, on the state the command left. -/
def pulseEdge (i : Inputs) (s : State) : Result := if i.tick then exec .tick s else .next s

/-- An edge in an idle period: the command first, then the tick (43_scheduler.md R146). -/
def idleEdge (i : Inputs) (s : State) : Result := andThen (commandEdge i s) (pulseEdge i)

/-- An edge inside a slot: advance it, or end it, advance the cursor and dispatch (41_byte_transmitter.md R102, R103,
42_frame_sequencer.md R121, 43_scheduler.md R137). -/
def slotEdge (s : State) : Result :=
  if s.cnt < lastSlotBit then slotAdvance s else dispatch (advanceCursor s)

/-- The edge that ends a bit period, on the inputs of that period: the order of evaluation of 43_scheduler.md R146.
`cmd_valid`, `cmd_word` and `tick` are looked at in IDLE only; reset beats everything. -/
def edgeOn (i : Inputs) (s : State) : Result :=
  if i.rst then .next (resetRegisters s)
  else match s.phase with
    | .idle => idleEdge i s
    | .brk => breakEdge s
    | .mab => markEdge s
    | .slot => slotEdge s

/-- The edge that ends the current bit period. -/
def edge (s : State) : Result := edgeOn (inputNow s) (nextPeriod s)

/-- One `clk` cycle: the divider counts, and the last cycle of a bit period ends in its edge (00_scope.md R13). -/
def clkCycle (s : State) : Result := if bitTick s then edge s else .next (countClk s)

/-! ## Placing an operation for the next step (log entry 4) -/

/-- The last `clk` cycle of a bit period whose inputs are `i`. -/
def presentInputs (i : Inputs) (s : State) : State :=
  { s with baudCnt := s.cfg.clksPerBit - 1, inputs := i :: s.inputs.tail }

/-- Inputs that present nothing. -/
def quietInputs : Inputs := { rst := false, cmdValid := false, cmdWord := 0#34, tick := false }

/-- No transition in flight, the line high. -/
def placeIdle (s : State) : State := { s with phase := .idle, cnt := 0, tx := true }

/-- The last period of a transition of a running engine, with `budget` left; the cursor is `cursor` in a frame of
`count` channels. -/
def placeTransitionEnd (budget count cursor : Nat) (s : State) : State :=
  presentInputs quietInputs
    { s with phase := .slot, cnt := lastSlotBit, txbyte := 0#8, tx := true, engineRunning := true, budget := budget,
             activeChannelCount := count, frameCursor := cursor }

/-- The next step dispatches CHANNEL(k), whatever the count was. -/
def placeChannel (k : Nat) (s : State) : State :=
  placeTransitionEnd costByte (max s.activeChannelCount k) (k - 1) s

/-- The next step is the edge that ends the mark after break, which sends the start code. -/
def placeMarkEnd (s : State) : State :=
  presentInputs quietInputs
    { s with phase := .mab, cnt := s.cfg.mabBits - 1, tx := true, engineRunning := true, frameCursor := 0 }

/-- The next step advances a slot that carries 0x00 to a data bit (low) or to the first stop bit (high). -/
def placeLevel (level : Level) (s : State) : State :=
  presentInputs quietInputs
    { s with phase := .slot, cnt := if level then 8 else 0, txbyte := 0#8, tx := false, engineRunning := true }

/-- The state whose next step runs the operation that a word stands for. A command or a pulse is presented in an idle
period; a transition is what the end of the one before it dispatches; the start code is sent at the end of the mark,
any other byte from slot 0 of the buffer by CHANNEL(1); a level is driven by a slot in flight. -/
def placeOp (o : OpWord) (s : State) : State :=
  match o with
  | .command w => presentInputs { quietInputs with cmdValid := true, cmdWord := w } (placeIdle s)
  | .event t => presentInputs { quietInputs with tick := t.getLsbD 0 } (placeIdle s)
  | .level l => placeLevel (l.getLsbD 0) s
  | .slot w =>
    match decodeSlot w with
    | .ok _ =>
      if slotByte w = startCode then placeMarkEnd s
      else placeChannel 1 { s with channelBuffer := bufferWrite s.channelBuffer 0 (slotByte w) }
    | .error _ => s
  | .cursor c =>
    if c.toNat = 0 then placeTransitionEnd costBreak s.activeChannelCount s.activeChannelCount s
    else if c.toNat ≤ Config.nChannels then placeChannel c.toNat s
    else s

/-- The state whose next step runs the operation of a word of spec/opcode_table.json's numbering; where the decoder
refuses the word, the state as it is. -/
def placeTableWord (nbits w : Nat) (s : State) : State :=
  match tableWord nbits w with
  | some o => placeOp o s
  | none => s

end Machine
end Sys2Proof
end

