-- ==== Sys2Proof/Machine/Step.lean ====
section
/-! DEFINITION. The step of the machine: one `clk` cycle, which under `CLKS_PER_BIT = 1` is one bit period
(spec/00_scope.md R12, R13; spec/43_scheduler.md R146). -/

namespace Sys2Proof.Machine

/-- One step: one `clk` cycle. -/
def step (s : State) : Host.Outcome State Fault Refusal := clkCycle s

/-- The state whose next step runs the operation of a word of spec/opcode_table.json's numbering (log entry 4). -/
def State.withFetchWord (s : State) (nbits w : Nat) : State := placeTableWord nbits w s

end Sys2Proof.Machine
end

