-- ==== Sys2Proof/Safety.lean ====
section
/-! DEFINITION. The terms claims use: valid configurations, the invariants of the block, runs of bit periods, what the
line shows over a run, and which part of a state belongs to the host and which to the engine. -/

namespace Sys2Proof
namespace Machine

/-! ## Premises (00_scope.md R10, 43_scheduler.md R145) -/

/-- The numeric clauses of `ConfigValid` (00_scope.md R10). -/
abbrev NumericallyValid (c : Config) : Prop :=
  22 ≤ c.breakBits ∧ 2 ≤ c.mabBits ∧ 1 ≤ c.clksPerBit ∧ 1 ≤ c.tickBits ∧ 0 < c.budgetNum ∧
    c.budgetNum ≤ c.budgetDen ∧ costBreak ≤ budgetBits c ∧
    budgetBits c + budgetBits c / costBreak * (breakDur c - costBreak) ≤ c.tickBits - 1

/-- `LineValid(line)` (00_scope.md R8): a premise on the platform, which the block never checks (60_exceptions.md
R182). -/
abbrev LineValid (c : Config) (line : LineId) : Prop := line ∈ c.validLines

/-- `PeriodicTick(φ)` over the next `n` bit periods, for a phase `0 ≤ φ < TICK_BITS` (43_scheduler.md R145). -/
abbrev PeriodicTick (φ n : Nat) (s : State) : Prop :=
  φ < s.cfg.tickBits ∧ ∀ j < n, (inputAt s j).tick = decide ((s.period + j) % s.cfg.tickBits = φ)

/-- The platform timer is present and drives `tick`: for some phase, `PeriodicTick` over any number of bit periods
(00_scope.md R10, 43_scheduler.md R145). -/
def TimerPresent (s : State) : Prop := ∃ φ, ∀ n, PeriodicTick φ n s

/-- `ConfigValid` (00_scope.md R10): its clauses on the parameters of the machine and on its timer. -/
def ConfigValid (s : State) : Prop := NumericallyValid s.cfg ∧ LineValid s.cfg s.cfg.lineReset ∧ TimerPresent s

/-- No reset in the next `n` bit periods. -/
abbrev NoReset (n : Nat) (s : State) : Prop := ∀ j < n, (inputAt s j).rst = false

/-- No command presented in the next `n` bit periods. -/
abbrev NoCommand (n : Nat) (s : State) : Prop := ∀ j < n, (inputAt s j).cmdValid = false

/-! ## Invariants -/

/-- The invariants of 10_state.md R36, each under its item's number there, with the canonical form of the buffer and
the range of the divider. -/
structure Inv (s : State) : Prop where
  /-- Item 1. -/
  cursorLeCount : s.frameCursor ≤ s.activeChannelCount
  /-- Item 1. -/
  countLe : s.activeChannelCount ≤ 512
  /-- Item 2. -/
  idleLine : s.phase = .idle → s.tx = true ∧ s.cnt = 0
  /-- Item 3. -/
  busyRuns : s.phase ≠ .idle → s.engineRunning = true
  /-- Item 4. -/
  stoppedEmpty : s.engineRunning = false → s.activeChannelCount = 0 ∧ s.frameCursor = 0
  /-- Item 5. -/
  startCodeSlot : s.phase = .slot → s.frameCursor = 0 → s.txbyte = 0x00#8
  /-- Item 6. -/
  budgetLe : s.budget ≤ budgetBits s.cfg
  /-- Item 7, `BRK`. -/
  inBreak : s.phase = .brk → s.tx = false ∧ s.frameCursor = 0 ∧ s.cnt < s.cfg.breakBits
  /-- Item 7, `MAB`. -/
  inMark : s.phase = .mab → s.tx = true ∧ s.frameCursor = 0 ∧ s.cnt < s.cfg.mabBits
  /-- Item 7, `SLOT`. -/
  inSlot : s.phase = .slot → s.cnt ≤ 10 ∧ s.tx = slotLevel s.txbyte s.cnt
  /-- The buffer is in canonical form, so every index is below 512 (10_state.md R24). -/
  bufferWf : s.channelBuffer.wf = true
  /-- The divider counts 0 to `CLKS_PER_BIT − 1` (00_scope.md R13). -/
  baudLt : s.baudCnt < max 1 s.cfg.clksPerBit

/-! ## Runs of bit periods -/

/-- `k` steps (`clk` cycles), stopping at the first stop. -/
def runSteps : Nat → State → Result
  | 0, s => .next s
  | k + 1, s => andThen (step s) (runSteps k)

/-- `k` edges, stopping at the first stop. -/
def runEdges : Nat → State → Result
  | 0, s => .next s
  | k + 1, s => andThen (edge s) (runEdges k)

/-- The levels of `tx` in the next `k` bit periods, the current one first. -/
def wire : Nat → State → List Level
  | 0, _ => []
  | k + 1, s => s.tx :: (match nextState (edge s) with
    | some t => wire k t
    | none => [])

/-- The levels of `tx` in those of the next `k` bit periods in which a transition is in flight. -/
def busyWire : Nat → State → List Level
  | 0, _ => []
  | k + 1, s => (if s.phase = .idle then [] else [s.tx]) ++ (match nextState (edge s) with
    | some t => busyWire k t
    | none => [])

/-- The eleven levels of a slot that carries `b`, written out (30_encoding.md R70). -/
def slotLevels (b : Byte) : List Level :=
  [false, b.getLsbD 0, b.getLsbD 1, b.getLsbD 2, b.getLsbD 3, b.getLsbD 4, b.getLsbD 5, b.getLsbD 6, b.getLsbD 7,
   true, true]

/-- The levels of a whole BREAK transition (42_frame_sequencer.md R126). -/
def breakLevels (c : Config) : List Level :=
  List.replicate c.breakBits false ++ List.replicate c.mabBits true ++ slotLevels 0x00#8

/-- The levels of the transition that a cursor value selects (42_frame_sequencer.md R116, R126). -/
def transitionLevels (c : Config) (buffer : Memory) (cursor : Nat) : List Level :=
  if cursor = 0 then breakLevels c else slotLevels (bufferRead buffer (cursor - 1))

/-- The levels of `n` consecutive transitions from cursor `cursor` on, in a frame of `count` channels
(42_frame_sequencer.md R121, R125). -/
def transitionsLevels (c : Config) (buffer : Memory) (count : Nat) : Nat → Nat → List Level
  | 0, _ => []
  | n + 1, cursor => transitionLevels c buffer cursor ++
      transitionsLevels c buffer count n (nextCursor count cursor)

/-- The longest a tick can keep the line busy: the remaining budget, and the excess of a long break per BREAK it can
pay for (43_scheduler.md R144). -/
def busyBound (c : Config) (budget : Nat) : Nat := budget + budget / costBreak * (breakDur c - costBreak)

/-! ## Whose state is whose (10_state.md R35, 60_exceptions.md R187) -/

/-- The registers only the engine writes are as before: Budget, phase, cnt, txbyte, tx. -/
abbrev SameEngine (s t : State) : Prop :=
  t.budget = s.budget ∧ t.phase = s.phase ∧ t.cnt = s.cnt ∧ t.txbyte = s.txbyte ∧ t.tx = s.tx

/-- Every byte of the buffer reads as before. -/
abbrev SameMemory (s t : State) : Prop := ∀ a, memRead t a = memRead s a

/-- Every byte of the buffer outside index `i` reads as before. -/
abbrev SameMemoryBut (i : Nat) (s t : State) : Prop := ∀ a, a ≠ i → memRead t a = memRead s a

/-- The registers only the host's commands write are as before: the buffer, the count, EngineRunning, OutputBinding. -/
abbrev SameHost (s t : State) : Prop :=
  t.channelBuffer = s.channelBuffer ∧ t.activeChannelCount = s.activeChannelCount ∧
    t.engineRunning = s.engineRunning ∧ t.outputBinding = s.outputBinding

/-- The parameters, the divider and the outside world are as before. -/
abbrev SameWorld (s t : State) : Prop :=
  t.cfg = s.cfg ∧ t.baudCnt = s.baudCnt ∧ t.period = s.period ∧ t.inputs = s.inputs

/-- `s` with other values in the registers that only the engine writes. -/
def withEngine (budget : Nat) (phase : Phase) (cnt : Nat) (txbyte : Byte) (tx : Level) (s : State) : State :=
  { s with budget := budget, phase := phase, cnt := cnt, txbyte := txbyte, tx := tx }

/-- `s` with other inputs in the current bit period. -/
def withInputNow (i : Inputs) (s : State) : State := { s with inputs := i :: s.inputs.tail }

/-- Apply `f` to the state an outcome gives. -/
def mapNext (f : State → State) (o : Result) : Result := andThen o (fun t => .next (f t))

/-- The operation is one of the four host commands (30_encoding.md R75). -/
def isCommand : Instr → Bool
  | .write _ _ | .setmax _ | .selline _ | .rsvd => true
  | .brk | .channel _ | .sendbyte _ | .setline _ | .tick => false

/-- The command accepted at the edge that ends this period, if one is: no reset, a command presented, no transition in
flight (44_control_surface.md R155). -/
def acceptedCommand (s : State) : Option Instr :=
  if (inputNow s).rst then none else if cmdReady s then presentedCommand (inputNow s) else none

end Machine
end Sys2Proof
end

