-- ==== Sys2Proof/Certificates/Slice0/Obligations.lean ====
section
/-! DEFINITION. The statements for the provers, from the numbered rules of spec/. A state named `t` is the state the
operation or the step answers; every clause about `t` that names a register says its value there, and the `Same…`
predicates of Safety.lean say what is unchanged. -/

open Sys2Proof Sys2Proof.Machine

/-! ## Host commands (44_control_surface.md) -/

/-- R157, R158. WRITE is decoded from `op = 0b00` with two's complement operands; it starts a stopped engine whatever
the channel; in range it stores the value clamped to 0..255 at index channel − 1, changes no other slot and grows the
count; out of range it leaves buffer and count alone; it moves the cursor only by the start; nothing else changes; and
the same WRITE once more changes nothing at all. -/
def Obligations.WriteStoresClampedAndStarts : Prop :=
  (∀ w : CmdWord, cmdOp w = 0b00#2 → decodeCommand w = .write (sint16 (cmdA w)) (sint16 (cmdV w))) ∧
  ∀ (s : State) (channel value : Int), s.channelBuffer.wf = true → s.frameCursor ≤ s.activeChannelCount →
    ∃ t, exec (.write channel value) s = .next t ∧
      t.engineRunning = true ∧
      t.frameCursor = (if s.engineRunning then s.frameCursor else 0) ∧
      (1 ≤ channel ∧ channel ≤ 512 →
        (channelIndex channel : Int) = channel - 1 ∧
        (∃ b, memRead t (channelIndex channel) = .ok b ∧
          (b.toNat : Int) = if value < 0 then 0 else if 255 < value then 255 else value) ∧
        SameMemoryBut (channelIndex channel) s t ∧
        (t.activeChannelCount : Int) = max (s.activeChannelCount : Int) channel) ∧
      (¬(1 ≤ channel ∧ channel ≤ 512) → SameMemory s t ∧ t.activeChannelCount = s.activeChannelCount) ∧
      t.outputBinding = s.outputBinding ∧ SameEngine s t ∧ SameWorld s t ∧
      exec (.write channel value) t = .next t

/-- R159. SETMAX with channel ≤ 0 stops the engine and clears count and cursor; above 0 it sets the count, saturated at
512, starts a stopped engine, and keeps the cursor of a running one only where it is not above the new count. The
buffer, the binding and the engine's own registers are unchanged. After a stop any WRITE restarts the engine. -/
def Obligations.SetmaxStopsOrSetsTheCount : Prop :=
  (∀ w : CmdWord, cmdOp w = 0b01#2 → decodeCommand w = .setmax (sint16 (cmdA w))) ∧
  ∀ (s : State) (channel : Int),
    ∃ t, exec (.setmax channel) s = .next t ∧
      (channel ≤ 0 → t.engineRunning = false ∧ t.activeChannelCount = 0 ∧ t.frameCursor = 0 ∧
        ∀ c v : Int, ∃ u, exec (.write c v) t = .next u ∧ u.engineRunning = true) ∧
      (0 < channel → t.engineRunning = true ∧ (t.activeChannelCount : Int) = min channel 512 ∧
        t.frameCursor = if s.engineRunning ∧ (s.frameCursor : Int) ≤ min channel 512 then s.frameCursor else 0) ∧
      SameMemory s t ∧ t.outputBinding = s.outputBinding ∧ SameEngine s t ∧ SameWorld s t

/-- R160. SELLINE rebinds the line; a running engine stays running and its cursor goes to 0, a stopped one stays
stopped; the count is kept, and buffer and engine registers are unchanged. It is accepted only with no transition in
flight and the line high. -/
def Obligations.SellineRebindsAndRestarts : Prop :=
  (∀ w : CmdWord, cmdOp w = 0b10#2 → decodeCommand w = .selline (cmdA w)) ∧
  (∀ (s : State) (line : LineId), s.frameCursor ≤ s.activeChannelCount →
    ∃ t, exec (.selline line) s = .next t ∧
      t.outputBinding = line ∧ lineId t = line ∧ t.engineRunning = s.engineRunning ∧
      t.frameCursor = (if s.engineRunning then 0 else s.frameCursor) ∧
      t.activeChannelCount = s.activeChannelCount ∧
      SameMemory s t ∧ SameEngine s t ∧ SameWorld s t) ∧
  ∀ (s : State) (line : LineId), Inv s → acceptedCommand s = some (.selline line) → s.phase = .idle ∧ s.tx = true

/-- R161. RSVD is decoded from `op = 0b11` whatever its other bits, and changes no register. -/
def Obligations.RsvdChangesNothing : Prop :=
  (∀ w : CmdWord, cmdOp w = 0b11#2 → decodeCommand w = .rsvd) ∧
  ∀ s : State, s.frameCursor ≤ s.activeChannelCount → exec .rsvd s = .next s

/-- R122, R164. After any accepted command the cursor is inside the frame: it is the cursor the command left, or 0
where the command left it above the count; only a SETMAX can make that happen. -/
def Obligations.CommandsNormaliseTheCursor : Prop :=
  ∀ (s t : State) (i : Instr), isCommand i = true → exec i s = .next t →
    t.frameCursor ≤ t.activeChannelCount ∧ (t.frameCursor = s.frameCursor ∨ t.frameCursor = 0) ∧
    (s.frameCursor ≤ s.activeChannelCount → s.engineRunning = true → t.frameCursor ≠ s.frameCursor →
      (∃ channel, i = .setmax channel ∧ t.activeChannelCount < s.frameCursor) ∨ ∃ line, i = .selline line)

/-- R156. No command writes Budget, phase, cnt, txbyte or tx, and none reads them: changing them before the command is
changing them after it. -/
def Obligations.CommandsIgnoreEngineRegisters : Prop :=
  ∀ (s : State) (i : Instr) (budget : Nat) (phase : Phase) (cnt : Nat) (txbyte : Byte) (tx : Level),
    isCommand i = true →
      (∀ t, exec i s = .next t → SameEngine s t) ∧
      exec i (withEngine budget phase cnt txbyte tx s) = mapNext (withEngine budget phase cnt txbyte tx) (exec i s)

/-- R78, R180. Whatever the command word and whatever the state, the command is executed: no word and no operand value
is refused or trapped. -/
def Obligations.EveryCommandWordExecutes : Prop :=
  ∀ (w : CmdWord) (s : State), ∃ i t, decode (.command w) = .ok i ∧ isCommand i = true ∧ exec i s = .next t

/-- R192. What wakes a stopped engine: any WRITE, or a SETMAX with channel ≥ 1, and no other command. -/
def Obligations.WhatWakesAStoppedEngine : Prop :=
  ∀ (s t : State) (i : Instr), isCommand i = true → s.engineRunning = false → exec i s = .next t →
    (t.engineRunning = true ↔
      (∃ channel value, i = .write channel value) ∨ (∃ channel, 1 ≤ channel ∧ i = .setmax channel))

/-! ## The line and the slot (40_line_driver.md, 41_byte_transmitter.md) -/

/-- R90. SETLINE(level) sets `tx` and changes nothing else. -/
def Obligations.SetlineDrivesTheLine : Prop :=
  ∀ (s : State) (level : Level), exec (.setline level) s = .next { s with tx := level }

/-- R100. The levels of a slot: start bit low, data bits least significant first and true, two stop bits high. -/
def Obligations.SlotLevelsAreStartDataStop : Prop :=
  ∀ b : Byte, slotLevel b 0 = false ∧ (∀ j, 1 ≤ j → j ≤ 8 → slotLevel b j = b.getLsbD (j - 1)) ∧
    slotLevel b 9 = true ∧ slotLevel b 10 = true ∧ (List.range 11).map (slotLevel b) = slotLevels b

/-- R101. SENDBYTE(b) enters the first period of a slot with the byte latched and the line at the start bit, and the
eleven periods that follow show the eleven levels of that byte; for 0x00, 0xFF and 0x80 they are those the rule
lists. -/
def Obligations.SendbyteStartsASlot : Prop :=
  (∀ (s : State) (b : Byte),
    ∃ t, exec (.sendbyte b) s = .next t ∧ t = { s with phase := .slot, cnt := 0, txbyte := b, tx := slotLevel b 0 } ∧
      slotLevel b 0 = false ∧ (NoReset 11 t → wire 11 t = slotLevels b)) ∧
  slotLevels 0x00#8 = List.replicate 9 false ++ List.replicate 2 true ∧
  slotLevels 0xFF#8 = false :: List.replicate 10 true ∧
  slotLevels 0x80#8 = List.replicate 8 false ++ List.replicate 3 true

/-- R102. Inside a slot an edge advances `cnt` and drives the next level and changes nothing else; so from its first
period on, in period j of the slot `cnt` is j and the line has level j of the latched byte. -/
def Obligations.SlotAdvancesThroughItsByte : Prop :=
  (∀ s : State, bitTick s = true → (inputNow s).rst = false → s.phase = .slot → s.cnt < 10 →
    step s = .next { nextPeriod s with cnt := s.cnt + 1, tx := slotLevel s.txbyte (s.cnt + 1) }) ∧
  (∀ (s : State) (j : Nat), s.phase = .slot → s.cnt = 0 → s.tx = slotLevel s.txbyte 0 → j ≤ 10 → NoReset j s →
    ∃ t, runEdges j s = .next t ∧ t.phase = .slot ∧ t.cnt = j ∧ t.txbyte = s.txbyte ∧
      t.tx = slotLevel s.txbyte j ∧ t.frameCursor = s.frameCursor ∧ t.budget = s.budget ∧ SameHost s t)

/-- R91, R92. Only the engine and the reset write the line: at an edge in an idle period that accepts no tick, the line
keeps its level, whatever command is accepted. -/
def Obligations.CommandsLeaveTheLine : Prop :=
  ∀ s t : State, (inputNow s).rst = false → s.phase = .idle → (inputNow s).tick = false → step s = .next t →
    t.tx = s.tx ∧ t.phase = .idle

/-! ## The sequencer (42_frame_sequencer.md) -/

/-- R117. BREAK drives the line low and keeps it low for exactly `BREAK_BITS` periods, then raises it. -/
def Obligations.BreakIsLowForBreakBits : Prop :=
  (∀ s : State, exec .brk s = .next { s with phase := .brk, cnt := 0, tx := false }) ∧
  (∀ s : State, bitTick s = true → (inputNow s).rst = false → s.phase = .brk →
    step s = .next (if s.cnt < s.cfg.breakBits - 1 then { nextPeriod s with cnt := s.cnt + 1 }
      else { nextPeriod s with phase := .mab, cnt := 0, tx := true })) ∧
  (∀ s : State, s.phase = .brk → s.cnt = 0 → s.tx = false → 1 ≤ s.cfg.breakBits → NoReset s.cfg.breakBits s →
    wire s.cfg.breakBits s = List.replicate s.cfg.breakBits false ∧
    ∃ t, runEdges s.cfg.breakBits s = .next t ∧ t.phase = .mab ∧ t.cnt = 0 ∧ t.tx = true)

/-- R118. The mark after break is high for exactly `MAB_BITS` periods, then the start code is sent. -/
def Obligations.MarkIsHighForMabBits : Prop :=
  (∀ s : State, bitTick s = true → (inputNow s).rst = false → s.phase = .mab →
    step s = if s.cnt < s.cfg.mabBits - 1 then .next { nextPeriod s with cnt := s.cnt + 1 }
      else exec (.sendbyte 0x00#8) (nextPeriod s)) ∧
  (∀ s : State, s.phase = .mab → s.cnt = 0 → s.tx = true → 1 ≤ s.cfg.mabBits → NoReset s.cfg.mabBits s →
    wire s.cfg.mabBits s = List.replicate s.cfg.mabBits true ∧
    ∃ t, runEdges s.cfg.mabBits s = .next t ∧ t.phase = .slot ∧ t.cnt = 0 ∧ t.txbyte = 0x00#8 ∧ t.tx = false)

/-- R120. CHANNEL(k) reads index k − 1 of the buffer and sends that byte: the start of its slot at this edge, and its
eleven levels in the eleven periods that follow, after which the transition is at its last period. -/
def Obligations.ChannelSendsItsSlot : Prop :=
  ∀ (s : State) (k : Nat), 1 ≤ k → k ≤ 512 →
    ∃ b t, memRead s (k - 1) = .ok b ∧ exec (.channel k) s = .next t ∧
      t = { s with phase := .slot, cnt := 0, txbyte := b, tx := false } ∧
      (NoReset 11 t → wire 11 t = slotLevels b ∧ ∃ u, runEdges 10 t = .next u ∧ u.phase = .slot ∧ u.cnt = 10)

/-- The model's own stop (log entry 7): CHANNEL of a number that names no channel reads no slot and faults. -/
def Obligations.ChannelOutsideTheBufferStops : Prop :=
  ∀ (s : State) (k : Nat), k = 0 ∨ 512 < k → ∃ index, exec (.channel k) s = .fault (.noSuchSlot index)

/-- R121. The edge that ends a transition advances the cursor, or wraps it to 0 after the last channel of the frame. -/
def Obligations.CursorAdvancesAndWraps : Prop :=
  ∀ s : State, bitTick s = true → (inputNow s).rst = false → s.phase = .slot → s.cnt = 10 →
    s.frameCursor ≤ s.activeChannelCount → s.activeChannelCount ≤ 512 →
    ∃ t, step s = .next t ∧ SameHost s t ∧
      t.frameCursor = (if s.frameCursor + 1 > s.activeChannelCount then 0 else s.frameCursor + 1)

/-- R127. These are all the ways the cursor changes in a step: to 0 by a reset; to 0 by an accepted command other than
RSVD; and at the edge that ends a transition, by one, or to 0 exactly where that would leave the frame. -/
def Obligations.CursorMovesOnlyByOneOrToZero : Prop :=
  ∀ s t : State, s.frameCursor ≤ s.activeChannelCount → step s = .next t → t.frameCursor ≠ s.frameCursor →
    ((inputNow s).rst = true ∧ t.frameCursor = 0) ∨
    (∃ i, acceptedCommand s = some i ∧ i ≠ .rsvd ∧ t.frameCursor = 0) ∨
    ((inputNow s).rst = false ∧ s.phase = .slot ∧ 10 ≤ s.cnt ∧
      t.frameCursor = if s.frameCursor + 1 > s.activeChannelCount then 0 else s.frameCursor + 1)

/-- R124. A transition, once started, always completes unless reset intervenes: from BRK, MAB and a slot's periods 0 to
9 a step leads only to the same phase or the next one of the same transition. -/
def Obligations.TransitionsAreNeverCutShort : Prop :=
  ∀ s t : State, (inputNow s).rst = false → step s = .next t →
    (s.phase = .brk → t.phase = .brk ∨ t.phase = .mab) ∧
    (s.phase = .mab → t.phase = .mab ∨ (t.phase = .slot ∧ t.cnt = 0 ∧ t.txbyte = 0x00#8)) ∧
    (s.phase = .slot → s.cnt < 10 → t.phase = .slot ∧ t.txbyte = s.txbyte) ∧
    (s.phase ≠ .idle → t.phase = .idle → s.phase = .slot ∧ 10 ≤ s.cnt)

/-- R126. A whole BREAK transition on the wire: `BREAK_BITS` low, `MAB_BITS` high, the slot of the start code, over
`BREAK_DUR` periods, the last of which is the last period of that slot. -/
def Obligations.BreakTransitionWaveform : Prop :=
  ∀ s t : State, 1 ≤ s.cfg.breakBits → 1 ≤ s.cfg.mabBits → exec .brk s = .next t → NoReset (breakDur s.cfg) t →
    wire (breakDur s.cfg) t = breakLevels s.cfg ∧
    ∃ u, runEdges (breakDur s.cfg - 1) t = .next u ∧ u.phase = .slot ∧ u.cnt = 10 ∧ u.txbyte = 0x00#8 ∧
      u.tx = true ∧ u.frameCursor = s.frameCursor ∧ u.budget = s.budget ∧ SameHost s u

/-! ## The scheduler (43_scheduler.md) -/

/-- R137. `Dispatch()`: the transition the cursor selects starts exactly when its declared cost fits the budget, which
is charged in full; otherwise the tick returns and nothing but `phase` and `cnt` changes. -/
def Obligations.DispatchStartsWhatFits : Prop :=
  ∀ s : State, s.frameCursor ≤ 512 →
    (s.frameCursor = 0 → 35 ≤ s.budget →
      dispatch s = exec .brk { s with budget := s.budget - 35 } ∧
      dispatch s = .next { s with budget := s.budget - 35, phase := .brk, cnt := 0, tx := false }) ∧
    (1 ≤ s.frameCursor → 11 ≤ s.budget → ∃ b, memRead s (s.frameCursor - 1) = .ok b ∧
      dispatch s = exec (.channel s.frameCursor) { s with budget := s.budget - 11 } ∧
      dispatch s = .next { s with budget := s.budget - 11, phase := .slot, cnt := 0, txbyte := b, tx := false }) ∧
    (s.frameCursor = 0 → s.budget < 35 → dispatch s = .next { s with phase := .idle, cnt := 0 }) ∧
    (1 ≤ s.frameCursor → s.budget < 11 → dispatch s = .next { s with phase := .idle, cnt := 0 })

/-- R135, R136. A tick is accepted exactly when no transition is in flight and the engine runs; it loads the budget
`floor(TICK_BITS × BUDGET_NUM / BUDGET_DEN)`, whatever was left, and dispatches; any other pulse has no effect. Where
`BUDGET_DEN` is 0 that floor has no value and the budget is free (the model's choice, log entry 16); all else holds
there too. -/
def Obligations.TickLoadsBudgetAndDispatches : Prop :=
  ∀ (s : State) (full : Nat), full = budgetBits s.cfg →
    (0 < s.cfg.budgetDen → full = s.cfg.tickBits * s.cfg.budgetNum / s.cfg.budgetDen) ∧
    (s.phase ≠ .idle ∨ s.engineRunning = false → exec .tick s = .next s) ∧
    (s.phase = .idle → s.engineRunning = true → s.frameCursor ≤ 512 →
      exec .tick s = dispatch { s with budget := full } ∧
      (s.frameCursor = 0 → 35 ≤ full →
        exec .tick s = .next { s with budget := full - 35, phase := .brk, cnt := 0, tx := false }) ∧
      (1 ≤ s.frameCursor → 11 ≤ full → ∃ b, memRead s (s.frameCursor - 1) = .ok b ∧
        exec .tick s = .next { s with budget := full - 11, phase := .slot, cnt := 0, txbyte := b, tx := false }) ∧
      (full < cost s.frameCursor → exec .tick s = .next { s with budget := full, phase := .idle, cnt := 0 }))

/-- R138. Within one tick there is no idle period between transitions: where the next cost fits, the edge that ends a
transition, and the edge that accepts a tick, lead straight into the first, low period of the next transition. -/
def Obligations.TransitionsOfATickAreBackToBack : Prop :=
  ∀ s t : State, bitTick s = true → (inputNow s).rst = false → step s = .next t →
    (s.phase = .slot → s.cnt = 10 → cost t.frameCursor ≤ s.budget →
      t.phase ≠ .idle ∧ t.cnt = 0 ∧ t.tx = false ∧ t.budget = s.budget - cost t.frameCursor) ∧
    (s.phase = .idle → (inputNow s).tick = true → t.engineRunning = true →
      cost t.frameCursor ≤ budgetBits s.cfg →
      t.phase ≠ .idle ∧ t.cnt = 0 ∧ t.tx = false ∧ t.budget = budgetBits s.cfg - cost t.frameCursor)

/-- R142. With `BUDGET_BITS ≥ 35` every accepted tick starts a transition; below 35 an idle block at cursor 0 stays
idle at cursor 0 with the line high, whatever the inputs are. -/
def Obligations.TickProgressNeedsTheBreakCost : Prop :=
  (∀ s : State, 35 ≤ budgetBits s.cfg → s.phase = .idle → s.engineRunning = true → s.frameCursor ≤ 512 →
    ∃ t, exec .tick s = .next t ∧ t.phase ≠ .idle) ∧
  (∀ (s t : State) (k : Nat), budgetBits s.cfg < 35 → s.phase = .idle → s.frameCursor = 0 → s.tx = true →
    runEdges k s = .next t → t.phase = .idle ∧ t.frameCursor = 0 ∧ t.tx = true)

/-- R144. The work of a tick is bounded by its budget: from an idle period, whatever the inputs, there is a length L at
most `BUDGET_BITS` plus the excess of the BREAKs the budget can pay for, such that a transition is in flight in each
of the next L periods and none in the period after them. -/
def Obligations.TickReturnsWithinItsBudget : Prop :=
  ∀ s : State, Inv s → 1 ≤ s.cfg.breakBits → 1 ≤ s.cfg.mabBits → s.phase = .idle →
    NoReset (busyBound s.cfg (budgetBits s.cfg) + 1) s →
    ∃ L, L ≤ busyBound s.cfg (budgetBits s.cfg) ∧
      (∀ j < L, ∃ u, runEdges (j + 1) s = .next u ∧ u.phase ≠ .idle) ∧
      ∃ t, runEdges (L + 1) s = .next t ∧ t.phase = .idle

/-- R144 with R145. Under a valid configuration and periodic ticks, a tick sampled in an idle period has returned when
the next one is sampled, so no tick is lost to one in flight. -/
def Obligations.NoPeriodicTickFindsOneInFlight : Prop :=
  ∀ (s : State) (φ : Nat), Inv s → NumericallyValid s.cfg → s.phase = .idle → (inputNow s).tick = true →
    PeriodicTick φ s.cfg.tickBits s → NoReset s.cfg.tickBits s →
    ∃ t, runEdges s.cfg.tickBits s = .next t ∧ t.phase = .idle ∧ t.period = s.period + s.cfg.tickBits ∧
      t.period % s.cfg.tickBits = φ

/-! ## Order, handshake, time (43_scheduler.md R146, 44_control_surface.md R155, 00_scope.md R13) -/

/-- R146. A step runs the decoded operations: at the sampling cycle of an idle period, first the presented command,
decoded from `cmd_word`, then TICK if the pulse is there, on the state the command left, with time moved on by one
period; and nothing but time where neither is there. -/
def Obligations.IdleStepRunsCommandThenTick : Prop :=
  ∀ s : State, bitTick s = true → (inputNow s).rst = false → s.phase = .idle →
    ((inputNow s).cmdValid = false → (inputNow s).tick = false → step s = .next (nextPeriod s)) ∧
    ((inputNow s).cmdValid = false → (inputNow s).tick = true → step s = exec .tick (nextPeriod s)) ∧
    (∀ i, (inputNow s).cmdValid = true → decode (.command (inputNow s).cmdWord) = .ok i →
      ((inputNow s).tick = false → step s = exec i (nextPeriod s)) ∧
      ((inputNow s).tick = true → step s = andThen (exec i (nextPeriod s)) (exec .tick)))

/-- R116, R146. A step runs the selected operations: at the sampling cycle of a period in flight, SETLINE of the next
level inside a slot and at the end of the break, SENDBYTE of the start code at the end of the mark, and at the end of
a transition the transition the advanced cursor selects, with its cost charged, if it fits. -/
def Obligations.BusyStepRunsSelectedOperation : Prop :=
  ∀ s : State, bitTick s = true → (inputNow s).rst = false →
    (s.phase = .brk → s.cnt = s.cfg.breakBits - 1 →
      step s = exec (.setline true) { nextPeriod s with phase := .mab, cnt := 0 }) ∧
    (s.phase = .mab → s.cnt = s.cfg.mabBits - 1 → step s = exec (.sendbyte 0x00#8) (nextPeriod s)) ∧
    (s.phase = .slot → s.cnt < 10 →
      step s = exec (.setline (slotLevel s.txbyte (s.cnt + 1))) { nextPeriod s with cnt := s.cnt + 1 }) ∧
    (s.phase = .slot → s.cnt = 10 →
      ∀ c, c = (if s.frameCursor + 1 > s.activeChannelCount then 0 else s.frameCursor + 1) → cost c ≤ s.budget →
      step s = exec (selectTransition c) { nextPeriod s with frameCursor := c, budget := s.budget - cost c })

/-- R155, R104, R140. `cmd_ready` is 1 exactly when `phase = IDLE`; while a transition is in flight the step does not
depend on `cmd_valid`, `cmd_word` or `tick` at all, so a command is not accepted and a pulse is not remembered. -/
def Obligations.InFlightStepIgnoresHostAndTick : Prop :=
  (∀ s : State, cmdReady s = true ↔ s.phase = .idle) ∧
  (∀ (s : State) (i j : Inputs), bitTick s = true → s.phase ≠ .idle → i.rst = j.rst →
    step (withInputNow i s) = step (withInputNow j s))

/-- R62. A WRITE accepted at the edge that accepts a tick is seen by the CHANNEL transition that starts at that edge. -/
def Obligations.FetchSeesTheSameEdgeWrite : Prop :=
  ∀ (s : State) (channel value : Int), bitTick s = true → (inputNow s).rst = false → s.phase = .idle →
    s.engineRunning = true → s.channelBuffer.wf = true → s.frameCursor ≤ s.activeChannelCount →
    (inputNow s).cmdValid = true → decodeCommand (inputNow s).cmdWord = .write channel value →
    (inputNow s).tick = true → (s.frameCursor : Int) = channel → 1 ≤ channel → channel ≤ 512 →
    11 ≤ budgetBits s.cfg →
    ∃ t, step s = .next t ∧ t.phase = .slot ∧ t.cnt = 0 ∧ t.tx = false ∧
      (t.txbyte.toNat : Int) = max 0 (min value 255) ∧ t.frameCursor = s.frameCursor

/-- R13. A faster clock refines a bit period: inside the period only `baud_cnt` changes, so `tx` is constant, and the
`CLKS_PER_BIT − baud_cnt` cycles to its end are together one edge. -/
def Obligations.ClockCyclesRefineOneEdge : Prop :=
  ∀ s : State, s.baudCnt < s.cfg.clksPerBit →
    (∀ j < s.cfg.clksPerBit - s.baudCnt,
      runSteps j s = .next { s with baudCnt := s.baudCnt + j }) ∧
    runSteps (s.cfg.clksPerBit - s.baudCnt) s = edge s

/-! ## Reset (70_reset_and_hazards.md) -/

/-- R34, R210. At an edge that sees `rst = 1` every register takes its reset value, whatever the state and whatever the
other inputs are: no command and no tick is accepted. -/
def Obligations.ResetBeatsEverything : Prop :=
  ∀ s : State, bitTick s = true → (inputNow s).rst = true →
    ∃ t, step s = .next t ∧ (∀ a < 512, memRead t a = .ok 0#8) ∧ t.channelBuffer = [] ∧
      t.activeChannelCount = 0 ∧ t.engineRunning = false ∧ t.frameCursor = 0 ∧ t.outputBinding = s.cfg.lineReset ∧
      t.budget = 0 ∧ t.phase = .idle ∧ t.cnt = 0 ∧ t.txbyte = 0x00#8 ∧ t.tx = true ∧ t.baudCnt = 0

/-- The model's own choice (log entry 9): a reset keeps the parameters and moves time on by one bit period, as any other
edge does, since neither is a register. -/
def Obligations.ResetKeepsParametersAndTime : Prop :=
  ∀ s t : State, bitTick s = true → (inputNow s).rst = true → step s = .next t →
    t.cfg = s.cfg ∧ t.period = s.period + 1 ∧ t.inputs = s.inputs.tail

/-- R34. The state after reset: engine stopped, buffer all zero, count and cursor 0, binding `LINE_RESET`, no transition
in flight, line high, `cmd_ready = 1`. -/
def Obligations.StateAfterReset : Prop :=
  (∀ a < 512, memRead State.reset a = .ok 0#8) ∧ State.reset.activeChannelCount = 0 ∧
  State.reset.engineRunning = false ∧ State.reset.frameCursor = 0 ∧
  lineId State.reset = State.reset.cfg.lineReset ∧ State.reset.budget = 0 ∧ State.reset.phase = .idle ∧
  State.reset.cnt = 0 ∧ State.reset.txbyte = 0x00#8 ∧ txPort State.reset = true ∧ State.reset.baudCnt = 0 ∧
  cmdReady State.reset = true ∧ tickInFlight State.reset = false

/-- R145, R182. Where the timer never raises `tick` the block never sends: from an idle period with the line high, any
number of periods without reset and without a pulse shows the line high, whatever commands are accepted. -/
def Obligations.WithoutTicksNothingIsSent : Prop :=
  ∀ (s : State) (k : Nat), s.phase = .idle → s.tx = true → NoReset k s → (∀ j < k, (inputAt s j).tick = false) →
    wire k s = List.replicate k true ∧ ∃ t, runEdges k s = .next t ∧ t.phase = .idle ∧ t.tx = true

/-- R192, R211. A stopped, idle block with the line high stays exactly so for any number of periods without a reset and
without a command, whatever `tick` does. -/
def Obligations.StoppedBlockStaysSilent : Prop :=
  ∀ (s : State) (k : Nat), s.engineRunning = false → s.phase = .idle → s.tx = true → NoReset k s → NoCommand k s →
    wire k s = List.replicate k true ∧
    ∃ t, runEdges k s = .next t ∧ SameHost s t ∧ SameEngine s t ∧ t.frameCursor = s.frameCursor ∧ t.cfg = s.cfg

/-! ## Whole-machine rules (10_state.md) -/

/-- R36. The invariants hold in the reset state. -/
def Obligations.InvariantsHoldAtReset : Prop := Inv State.reset

/-- R36. Every step keeps the invariants, whatever the inputs, where the break and the mark have a period at all. -/
def Obligations.StepKeepsInvariants : Prop :=
  ∀ s t : State, 1 ≤ s.cfg.breakBits → 1 ≤ s.cfg.mabBits → Inv s → step s = .next t → Inv t ∧ t.cfg = s.cfg

/-- R180, R146. The step is total: from a state that meets the invariants it always answers a next state. -/
def Obligations.StepNeverStops : Prop := ∀ s : State, Inv s → ∃ t, step s = .next t

/-- R35. The engine never writes what the host's commands write: at a step that accepts no command and no reset, the
buffer, the count, EngineRunning and OutputBinding are unchanged. -/
def Obligations.EngineNeverWritesHostState : Prop :=
  ∀ s t : State, (inputNow s).rst = false → acceptedCommand s = none → step s = .next t → SameHost s t

/-- R24. A slot of the buffer changes only at an edge with reset or with an accepted WRITE to its own channel. -/
def Obligations.SlotChangesOnlyByItsWrite : Prop :=
  ∀ (s t : State) (a : Nat), s.channelBuffer.wf = true → step s = .next t → memRead t a ≠ memRead s a →
    bitTick s = true ∧
      ((inputNow s).rst = true ∨ ∃ value, acceptedCommand s = some (.write ((a : Int) + 1) value))

/-- R25, R26, R27. The count changes only by reset, WRITE and SETMAX; OutputBinding only by reset and SELLINE;
EngineRunning only by reset, WRITE and SETMAX. -/
def Obligations.WhoWritesCountFlagAndBinding : Prop :=
  ∀ s t : State, (inputNow s).rst = false → step s = .next t →
    (t.activeChannelCount ≠ s.activeChannelCount ∨ t.engineRunning ≠ s.engineRunning →
      (∃ channel value, acceptedCommand s = some (.write channel value)) ∨
      ∃ channel, acceptedCommand s = some (.setmax channel)) ∧
    (t.outputBinding ≠ s.outputBinding → acceptedCommand s = some (.selline t.outputBinding))

/-- R9, R11. The widths of R9 are enough: no register that the rules treat as a natural number overflows them, nor does
the intermediate value 513 of the cursor advance. -/
def Obligations.RegistersFitTheirWidths : Prop :=
  ∀ s : State, Inv s →
    s.activeChannelCount < 2 ^ Config.cursorWidth ∧ s.frameCursor + 1 < 2 ^ Config.cursorWidth ∧
    s.budget < 2 ^ budgetWidth s.cfg ∧ s.cnt < 2 ^ cntWidth s.cfg

/-! ## Frames on the wire (30_encoding.md R71, 42_frame_sequencer.md R125) -/

/-- R71. A frame on the wire: a tick whose budget covers the whole frame sends break, mark, start code and then the
channel bytes in ascending order, each as a slot, with no period between them. -/
def Obligations.FrameOnTheWire : Prop :=
  ∀ s : State, Inv s → 1 ≤ s.cfg.breakBits → 1 ≤ s.cfg.mabBits → s.phase = .idle → s.engineRunning = true →
    s.frameCursor = 0 → (inputNow s).tick = true → (inputNow s).cmdValid = false →
    35 + 11 * s.activeChannelCount ≤ budgetBits s.cfg →
    NoReset (1 + (breakDur s.cfg + 11 * s.activeChannelCount)) s →
    wire (1 + (breakDur s.cfg + 11 * s.activeChannelCount)) s =
      true :: (breakLevels s.cfg ++
        (List.range s.activeChannelCount).flatMap (fun k => slotLevels (bufferRead s.channelBuffer k)))

/-- R125, the part that speaks of content: from an idle period on, with no command and no reset and whatever ticks, what
the line shows while transitions are in flight is a prefix of the endless sequence BREAK, CHANNEL(1), …, CHANNEL(N),
BREAK, … from the cursor on: nothing is skipped, repeated or cut by the chunking into ticks. -/
def Obligations.ChunkingIsTransparent : Prop :=
  ∀ (s : State) (k : Nat), Inv s → 1 ≤ s.cfg.breakBits → 1 ≤ s.cfg.mabBits → s.phase = .idle →
    NoReset k s → NoCommand k s →
    ∃ n, busyWire k s <+: transitionsLevels s.cfg s.channelBuffer s.activeChannelCount n s.frameCursor

/-! ## Encodings (30_encoding.md) -/

/-- Decoding the word of a well-formed operation gives the operation, with every operand at every value. -/
def Obligations.DecodeOfEncodeIsTheOperation : Prop :=
  ∀ i : Instr, i.wellFormed = true → decode (encode i) = .ok i

/-- The other direction (the words that no decoder of the spec reads are rejected by the model's choice, log entry 5):
whatever word decodes, decodes to a well-formed operation, and outside the command format, where bits are ignored, the
word is the one the encoder gives. -/
def Obligations.EncodeOfDecodeIsTheWord : Prop :=
  ∀ (o : OpWord) (i : Instr), decode o = .ok i → i.wellFormed = true ∧ (encode i = o ∨ ∃ w, o = .command w)

/-- R76. The four command patterns partition all command words: of the rows WRITE, SETMAX, SELLINE, RSVD exactly one
covers a word, and it is that of the operation the decoder reads. -/
def Obligations.CommandRowsPartitionAllWords : Prop :=
  ∀ w : CmdWord, ∃ r, commandRows.filter (fun r => r.covers w) = [r] ∧
    r.mnemonic = (match decodeCommand w with
      | .write _ _ => "WRITE"
      | .setmax _ => "SETMAX"
      | .selline _ => "SELLINE"
      | _ => "RSVD")

/-- Words written out from 30_encoding.md R70 and R74 to R79 decode to the operations they stand for. The four
rejections among them (a cursor above 512, no start bit, no stop bits, no pulse) are the model's choice, log entry 5:
no rule of the spec decodes those words. -/
def Obligations.WrittenOutWordsDecode : Prop :=
  decode (.command 0b00_0000000000000011_0000000010000000#34) = .ok (.write 3 128) ∧
  decode (.command 0b00_1111111111111101_0000000000000111#34) = .ok (.write (-3) 7) ∧
  decode (.command 0b01_0000000000000011_1010101111001101#34) = .ok (.setmax 3) ∧
  decode (.command 0b10_0000000000000101_0000000000000000#34) = .ok (.selline 0x0005#16) ∧
  decode (.command 0b11_1111111111111111_1111111111111111#34) = .ok .rsvd ∧
  decode (.cursor 0b0000000000#10) = .ok .brk ∧
  decode (.cursor 0b1000000000#10) = .ok (.channel 512) ∧
  decode (.cursor 0b1000000001#10) = .error .cursorOutOfRange ∧
  decode (.slot 0b01000000011#11) = .ok (.sendbyte 0x01#8) ∧
  decode (.slot 0b10000000011#11) = .error .noStartBit ∧
  decode (.slot 0b00000000001#11) = .error .noStopBits ∧
  decode (.level 0b1#1) = .ok (.setline true) ∧
  decode (.event 0b1#1) = .ok .tick ∧
  decode (.event 0b0#1) = .error .noPulse
end

