-- ==== Sys2Proof/Laws/Encoding.lean ====
section
/-! SUPPORT. The field laws of the encodings of spec/30_encoding.md: reading a field of a word that was put together,
and converting an operand back. -/

namespace Sys2Proof

theorem cmdOp_cmdWord (op : BitVec 2) (a v : BitVec 16) : cmdOp (cmdWord op a v) = op := by
  apply BitVec.eq_of_getLsbD_eq
  intro i hi
  simp only [cmdOp, cmdWord, BitVec.getLsbD_extractLsb', BitVec.getLsbD_append, hi, decide_true, Bool.true_and]
  rw [if_neg (by omega), if_neg (by omega)]
  congr 1
  omega

theorem cmdA_cmdWord (op : BitVec 2) (a v : BitVec 16) : cmdA (cmdWord op a v) = a := by
  apply BitVec.eq_of_getLsbD_eq
  intro i hi
  simp only [cmdA, cmdWord, BitVec.getLsbD_extractLsb', BitVec.getLsbD_append, hi, decide_true, Bool.true_and]
  rw [if_neg (by omega), if_pos (by omega)]
  congr 1
  omega

theorem cmdV_cmdWord (op : BitVec 2) (a v : BitVec 16) : cmdV (cmdWord op a v) = v := by
  apply BitVec.eq_of_getLsbD_eq
  intro i hi
  simp only [cmdV, cmdWord, BitVec.getLsbD_extractLsb', BitVec.getLsbD_append, hi, decide_true, Bool.true_and]
  rw [if_pos (by omega)]
  congr 1
  omega

/-- The mask of the four rows of format CMD keeps the field `op` and nothing else (30_encoding.md R76). -/
theorem and_opMask (w : CmdWord) : w &&& 0x300000000#34 = cmdWord (cmdOp w) 0#16 0#16 := by
  apply BitVec.eq_of_getLsbD_eq
  intro i hi
  have hm : (0x300000000#34).getLsbD i = decide (32 ≤ i) := by
    revert hi
    revert i
    decide
  simp only [BitVec.getLsbD_and, hm, cmdWord, cmdOp, BitVec.getLsbD_append, BitVec.getLsbD_extractLsb',
    BitVec.getLsbD_zero]
  by_cases h : 32 ≤ i
  · rw [if_neg (by omega), if_neg (by omega)]
    have h2 : i - 16 - 16 < 2 := by omega
    have h3 : 32 + (i - 16 - 16) = i := by omega
    simp [h, h2, h3]
  · simp only [h, decide_false, Bool.and_false]
    split <;> [rfl; rw [if_pos (by omega)]]

/-- Converting an operand in range to 16 bits and back gives it again (30_encoding.md R77). -/
theorem sint16_ofInt {x : Int} (h : IsSint16 x) : sint16 (BitVec.ofInt 16 x) = x := by
  obtain ⟨h1, h2⟩ := h
  unfold sint16
  rw [← BitVec.msb_eq_getLsbD_last, BitVec.msb_eq_decide]
  simp only [BitVec.toNat_ofInt]
  split <;> simp_all <;> omega

/-- An operand that was converted is in range. -/
theorem sint16_isSint16 (v : BitVec 16) : IsSint16 (sint16 v) := by
  have := v.isLt
  unfold IsSint16 sint16
  rw [← BitVec.msb_eq_getLsbD_last, BitVec.msb_eq_decide]
  split <;> simp_all <;> omega

/-- The byte of the slot that carries `b` (30_encoding.md R70). -/
theorem slotByte_slotWord (b : Byte) : slotByte (slotWord b) = b := by
  revert b
  decide

end Sys2Proof
end

