-- ==== Sys2Proof/Laws/State.lean ====
section
/-! SUPPORT. What each register write of Machine/Ops.lean leaves in each field of the state, so that no later proof
unfolds a record update. -/

namespace Sys2Proof
namespace Machine

section
variable (s : State)

/-! ### setLine -/

@[simp] theorem setLine_cfg (level : Level) : (setLine level s).cfg = s.cfg := rfl
@[simp] theorem setLine_channelBuffer (level : Level) : (setLine level s).channelBuffer = s.channelBuffer := rfl
@[simp] theorem setLine_activeChannelCount (level : Level) :
    (setLine level s).activeChannelCount = s.activeChannelCount := rfl
@[simp] theorem setLine_engineRunning (level : Level) : (setLine level s).engineRunning = s.engineRunning := rfl
@[simp] theorem setLine_frameCursor (level : Level) : (setLine level s).frameCursor = s.frameCursor := rfl
@[simp] theorem setLine_outputBinding (level : Level) : (setLine level s).outputBinding = s.outputBinding := rfl
@[simp] theorem setLine_budget (level : Level) : (setLine level s).budget = s.budget := rfl
@[simp] theorem setLine_phase (level : Level) : (setLine level s).phase = s.phase := rfl
@[simp] theorem setLine_cnt (level : Level) : (setLine level s).cnt = s.cnt := rfl
@[simp] theorem setLine_txbyte (level : Level) : (setLine level s).txbyte = s.txbyte := rfl
@[simp] theorem setLine_tx (level : Level) : (setLine level s).tx = level := rfl
@[simp] theorem setLine_baudCnt (level : Level) : (setLine level s).baudCnt = s.baudCnt := rfl
@[simp] theorem setLine_period (level : Level) : (setLine level s).period = s.period := rfl
@[simp] theorem setLine_inputs (level : Level) : (setLine level s).inputs = s.inputs := rfl

/-! ### setCnt -/

@[simp] theorem setCnt_cfg (n : Nat) : (setCnt n s).cfg = s.cfg := rfl
@[simp] theorem setCnt_channelBuffer (n : Nat) : (setCnt n s).channelBuffer = s.channelBuffer := rfl
@[simp] theorem setCnt_activeChannelCount (n : Nat) : (setCnt n s).activeChannelCount = s.activeChannelCount := rfl
@[simp] theorem setCnt_engineRunning (n : Nat) : (setCnt n s).engineRunning = s.engineRunning := rfl
@[simp] theorem setCnt_frameCursor (n : Nat) : (setCnt n s).frameCursor = s.frameCursor := rfl
@[simp] theorem setCnt_outputBinding (n : Nat) : (setCnt n s).outputBinding = s.outputBinding := rfl
@[simp] theorem setCnt_budget (n : Nat) : (setCnt n s).budget = s.budget := rfl
@[simp] theorem setCnt_phase (n : Nat) : (setCnt n s).phase = s.phase := rfl
@[simp] theorem setCnt_cnt (n : Nat) : (setCnt n s).cnt = n := rfl
@[simp] theorem setCnt_txbyte (n : Nat) : (setCnt n s).txbyte = s.txbyte := rfl
@[simp] theorem setCnt_tx (n : Nat) : (setCnt n s).tx = s.tx := rfl
@[simp] theorem setCnt_baudCnt (n : Nat) : (setCnt n s).baudCnt = s.baudCnt := rfl
@[simp] theorem setCnt_period (n : Nat) : (setCnt n s).period = s.period := rfl
@[simp] theorem setCnt_inputs (n : Nat) : (setCnt n s).inputs = s.inputs := rfl

/-! ### enterPhase -/

@[simp] theorem enterPhase_cfg (p : Phase) : (enterPhase p s).cfg = s.cfg := rfl
@[simp] theorem enterPhase_channelBuffer (p : Phase) : (enterPhase p s).channelBuffer = s.channelBuffer := rfl
@[simp] theorem enterPhase_activeChannelCount (p : Phase) :
    (enterPhase p s).activeChannelCount = s.activeChannelCount := rfl
@[simp] theorem enterPhase_engineRunning (p : Phase) : (enterPhase p s).engineRunning = s.engineRunning := rfl
@[simp] theorem enterPhase_frameCursor (p : Phase) : (enterPhase p s).frameCursor = s.frameCursor := rfl
@[simp] theorem enterPhase_outputBinding (p : Phase) : (enterPhase p s).outputBinding = s.outputBinding := rfl
@[simp] theorem enterPhase_budget (p : Phase) : (enterPhase p s).budget = s.budget := rfl
@[simp] theorem enterPhase_phase (p : Phase) : (enterPhase p s).phase = p := rfl
@[simp] theorem enterPhase_cnt (p : Phase) : (enterPhase p s).cnt = 0 := rfl
@[simp] theorem enterPhase_txbyte (p : Phase) : (enterPhase p s).txbyte = s.txbyte := rfl
@[simp] theorem enterPhase_tx (p : Phase) : (enterPhase p s).tx = s.tx := rfl
@[simp] theorem enterPhase_baudCnt (p : Phase) : (enterPhase p s).baudCnt = s.baudCnt := rfl
@[simp] theorem enterPhase_period (p : Phase) : (enterPhase p s).period = s.period := rfl
@[simp] theorem enterPhase_inputs (p : Phase) : (enterPhase p s).inputs = s.inputs := rfl

/-! ### latchByte -/

@[simp] theorem latchByte_cfg (b : Byte) : (latchByte b s).cfg = s.cfg := rfl
@[simp] theorem latchByte_channelBuffer (b : Byte) : (latchByte b s).channelBuffer = s.channelBuffer := rfl
@[simp] theorem latchByte_activeChannelCount (b : Byte) :
    (latchByte b s).activeChannelCount = s.activeChannelCount := rfl
@[simp] theorem latchByte_engineRunning (b : Byte) : (latchByte b s).engineRunning = s.engineRunning := rfl
@[simp] theorem latchByte_frameCursor (b : Byte) : (latchByte b s).frameCursor = s.frameCursor := rfl
@[simp] theorem latchByte_outputBinding (b : Byte) : (latchByte b s).outputBinding = s.outputBinding := rfl
@[simp] theorem latchByte_budget (b : Byte) : (latchByte b s).budget = s.budget := rfl
@[simp] theorem latchByte_phase (b : Byte) : (latchByte b s).phase = s.phase := rfl
@[simp] theorem latchByte_cnt (b : Byte) : (latchByte b s).cnt = s.cnt := rfl
@[simp] theorem latchByte_txbyte (b : Byte) : (latchByte b s).txbyte = b := rfl
@[simp] theorem latchByte_tx (b : Byte) : (latchByte b s).tx = s.tx := rfl
@[simp] theorem latchByte_baudCnt (b : Byte) : (latchByte b s).baudCnt = s.baudCnt := rfl
@[simp] theorem latchByte_period (b : Byte) : (latchByte b s).period = s.period := rfl
@[simp] theorem latchByte_inputs (b : Byte) : (latchByte b s).inputs = s.inputs := rfl

/-! ### setBudget -/

@[simp] theorem setBudget_cfg (n : Nat) : (setBudget n s).cfg = s.cfg := rfl
@[simp] theorem setBudget_channelBuffer (n : Nat) : (setBudget n s).channelBuffer = s.channelBuffer := rfl
@[simp] theorem setBudget_activeChannelCount (n : Nat) :
    (setBudget n s).activeChannelCount = s.activeChannelCount := rfl
@[simp] theorem setBudget_engineRunning (n : Nat) : (setBudget n s).engineRunning = s.engineRunning := rfl
@[simp] theorem setBudget_frameCursor (n : Nat) : (setBudget n s).frameCursor = s.frameCursor := rfl
@[simp] theorem setBudget_outputBinding (n : Nat) : (setBudget n s).outputBinding = s.outputBinding := rfl
@[simp] theorem setBudget_budget (n : Nat) : (setBudget n s).budget = n := rfl
@[simp] theorem setBudget_phase (n : Nat) : (setBudget n s).phase = s.phase := rfl
@[simp] theorem setBudget_cnt (n : Nat) : (setBudget n s).cnt = s.cnt := rfl
@[simp] theorem setBudget_txbyte (n : Nat) : (setBudget n s).txbyte = s.txbyte := rfl
@[simp] theorem setBudget_tx (n : Nat) : (setBudget n s).tx = s.tx := rfl
@[simp] theorem setBudget_baudCnt (n : Nat) : (setBudget n s).baudCnt = s.baudCnt := rfl
@[simp] theorem setBudget_period (n : Nat) : (setBudget n s).period = s.period := rfl
@[simp] theorem setBudget_inputs (n : Nat) : (setBudget n s).inputs = s.inputs := rfl

/-! ### setCount -/

@[simp] theorem setCount_cfg (n : Nat) : (setCount n s).cfg = s.cfg := rfl
@[simp] theorem setCount_channelBuffer (n : Nat) : (setCount n s).channelBuffer = s.channelBuffer := rfl
@[simp] theorem setCount_activeChannelCount (n : Nat) : (setCount n s).activeChannelCount = n := rfl
@[simp] theorem setCount_engineRunning (n : Nat) : (setCount n s).engineRunning = s.engineRunning := rfl
@[simp] theorem setCount_frameCursor (n : Nat) : (setCount n s).frameCursor = s.frameCursor := rfl
@[simp] theorem setCount_outputBinding (n : Nat) : (setCount n s).outputBinding = s.outputBinding := rfl
@[simp] theorem setCount_budget (n : Nat) : (setCount n s).budget = s.budget := rfl
@[simp] theorem setCount_phase (n : Nat) : (setCount n s).phase = s.phase := rfl
@[simp] theorem setCount_cnt (n : Nat) : (setCount n s).cnt = s.cnt := rfl
@[simp] theorem setCount_txbyte (n : Nat) : (setCount n s).txbyte = s.txbyte := rfl
@[simp] theorem setCount_tx (n : Nat) : (setCount n s).tx = s.tx := rfl
@[simp] theorem setCount_baudCnt (n : Nat) : (setCount n s).baudCnt = s.baudCnt := rfl
@[simp] theorem setCount_period (n : Nat) : (setCount n s).period = s.period := rfl
@[simp] theorem setCount_inputs (n : Nat) : (setCount n s).inputs = s.inputs := rfl

/-! ### bindLine -/

@[simp] theorem bindLine_cfg (line : LineId) : (bindLine line s).cfg = s.cfg := rfl
@[simp] theorem bindLine_channelBuffer (line : LineId) : (bindLine line s).channelBuffer = s.channelBuffer := rfl
@[simp] theorem bindLine_activeChannelCount (line : LineId) :
    (bindLine line s).activeChannelCount = s.activeChannelCount := rfl
@[simp] theorem bindLine_engineRunning (line : LineId) : (bindLine line s).engineRunning = s.engineRunning := rfl
@[simp] theorem bindLine_frameCursor (line : LineId) : (bindLine line s).frameCursor = s.frameCursor := rfl
@[simp] theorem bindLine_outputBinding (line : LineId) : (bindLine line s).outputBinding = line := rfl
@[simp] theorem bindLine_budget (line : LineId) : (bindLine line s).budget = s.budget := rfl
@[simp] theorem bindLine_phase (line : LineId) : (bindLine line s).phase = s.phase := rfl
@[simp] theorem bindLine_cnt (line : LineId) : (bindLine line s).cnt = s.cnt := rfl
@[simp] theorem bindLine_txbyte (line : LineId) : (bindLine line s).txbyte = s.txbyte := rfl
@[simp] theorem bindLine_tx (line : LineId) : (bindLine line s).tx = s.tx := rfl
@[simp] theorem bindLine_baudCnt (line : LineId) : (bindLine line s).baudCnt = s.baudCnt := rfl
@[simp] theorem bindLine_period (line : LineId) : (bindLine line s).period = s.period := rfl
@[simp] theorem bindLine_inputs (line : LineId) : (bindLine line s).inputs = s.inputs := rfl

/-! ### engineStart -/

@[simp] theorem engineStart_cfg : (engineStart s).cfg = s.cfg := rfl
@[simp] theorem engineStart_channelBuffer : (engineStart s).channelBuffer = s.channelBuffer := rfl
@[simp] theorem engineStart_activeChannelCount : (engineStart s).activeChannelCount = s.activeChannelCount := rfl
@[simp] theorem engineStart_engineRunning : (engineStart s).engineRunning = true := rfl
@[simp] theorem engineStart_frameCursor : (engineStart s).frameCursor = 0 := rfl
@[simp] theorem engineStart_outputBinding : (engineStart s).outputBinding = s.outputBinding := rfl
@[simp] theorem engineStart_budget : (engineStart s).budget = s.budget := rfl
@[simp] theorem engineStart_phase : (engineStart s).phase = s.phase := rfl
@[simp] theorem engineStart_cnt : (engineStart s).cnt = s.cnt := rfl
@[simp] theorem engineStart_txbyte : (engineStart s).txbyte = s.txbyte := rfl
@[simp] theorem engineStart_tx : (engineStart s).tx = s.tx := rfl
@[simp] theorem engineStart_baudCnt : (engineStart s).baudCnt = s.baudCnt := rfl
@[simp] theorem engineStart_period : (engineStart s).period = s.period := rfl
@[simp] theorem engineStart_inputs : (engineStart s).inputs = s.inputs := rfl

/-! ### engineStop -/

@[simp] theorem engineStop_cfg : (engineStop s).cfg = s.cfg := rfl
@[simp] theorem engineStop_channelBuffer : (engineStop s).channelBuffer = s.channelBuffer := rfl
@[simp] theorem engineStop_activeChannelCount : (engineStop s).activeChannelCount = s.activeChannelCount := rfl
@[simp] theorem engineStop_engineRunning : (engineStop s).engineRunning = false := rfl
@[simp] theorem engineStop_frameCursor : (engineStop s).frameCursor = s.frameCursor := rfl
@[simp] theorem engineStop_outputBinding : (engineStop s).outputBinding = s.outputBinding := rfl
@[simp] theorem engineStop_budget : (engineStop s).budget = s.budget := rfl
@[simp] theorem engineStop_phase : (engineStop s).phase = s.phase := rfl
@[simp] theorem engineStop_cnt : (engineStop s).cnt = s.cnt := rfl
@[simp] theorem engineStop_txbyte : (engineStop s).txbyte = s.txbyte := rfl
@[simp] theorem engineStop_tx : (engineStop s).tx = s.tx := rfl
@[simp] theorem engineStop_baudCnt : (engineStop s).baudCnt = s.baudCnt := rfl
@[simp] theorem engineStop_period : (engineStop s).period = s.period := rfl
@[simp] theorem engineStop_inputs : (engineStop s).inputs = s.inputs := rfl

/-! ### normalise -/

@[simp] theorem normalise_cfg : (normalise s).cfg = s.cfg := rfl
@[simp] theorem normalise_channelBuffer : (normalise s).channelBuffer = s.channelBuffer := rfl
@[simp] theorem normalise_activeChannelCount : (normalise s).activeChannelCount = s.activeChannelCount := rfl
@[simp] theorem normalise_engineRunning : (normalise s).engineRunning = s.engineRunning := rfl
@[simp] theorem normalise_frameCursor :
    (normalise s).frameCursor = if s.frameCursor > s.activeChannelCount then 0 else s.frameCursor := rfl
@[simp] theorem normalise_outputBinding : (normalise s).outputBinding = s.outputBinding := rfl
@[simp] theorem normalise_budget : (normalise s).budget = s.budget := rfl
@[simp] theorem normalise_phase : (normalise s).phase = s.phase := rfl
@[simp] theorem normalise_cnt : (normalise s).cnt = s.cnt := rfl
@[simp] theorem normalise_txbyte : (normalise s).txbyte = s.txbyte := rfl
@[simp] theorem normalise_tx : (normalise s).tx = s.tx := rfl
@[simp] theorem normalise_baudCnt : (normalise s).baudCnt = s.baudCnt := rfl
@[simp] theorem normalise_period : (normalise s).period = s.period := rfl
@[simp] theorem normalise_inputs : (normalise s).inputs = s.inputs := rfl

/-! ### advanceCursor -/

@[simp] theorem advanceCursor_cfg : (advanceCursor s).cfg = s.cfg := rfl
@[simp] theorem advanceCursor_channelBuffer : (advanceCursor s).channelBuffer = s.channelBuffer := rfl
@[simp] theorem advanceCursor_activeChannelCount : (advanceCursor s).activeChannelCount = s.activeChannelCount := rfl
@[simp] theorem advanceCursor_engineRunning : (advanceCursor s).engineRunning = s.engineRunning := rfl
@[simp] theorem advanceCursor_frameCursor :
    (advanceCursor s).frameCursor = nextCursor s.activeChannelCount s.frameCursor := rfl
@[simp] theorem advanceCursor_outputBinding : (advanceCursor s).outputBinding = s.outputBinding := rfl
@[simp] theorem advanceCursor_budget : (advanceCursor s).budget = s.budget := rfl
@[simp] theorem advanceCursor_phase : (advanceCursor s).phase = s.phase := rfl
@[simp] theorem advanceCursor_cnt : (advanceCursor s).cnt = s.cnt := rfl
@[simp] theorem advanceCursor_txbyte : (advanceCursor s).txbyte = s.txbyte := rfl
@[simp] theorem advanceCursor_tx : (advanceCursor s).tx = s.tx := rfl
@[simp] theorem advanceCursor_baudCnt : (advanceCursor s).baudCnt = s.baudCnt := rfl
@[simp] theorem advanceCursor_period : (advanceCursor s).period = s.period := rfl
@[simp] theorem advanceCursor_inputs : (advanceCursor s).inputs = s.inputs := rfl

/-! ### resetRegisters -/

@[simp] theorem resetRegisters_cfg : (resetRegisters s).cfg = s.cfg := rfl
@[simp] theorem resetRegisters_channelBuffer : (resetRegisters s).channelBuffer = [] := rfl
@[simp] theorem resetRegisters_activeChannelCount : (resetRegisters s).activeChannelCount = 0 := rfl
@[simp] theorem resetRegisters_engineRunning : (resetRegisters s).engineRunning = false := rfl
@[simp] theorem resetRegisters_frameCursor : (resetRegisters s).frameCursor = 0 := rfl
@[simp] theorem resetRegisters_outputBinding : (resetRegisters s).outputBinding = s.cfg.lineReset := rfl
@[simp] theorem resetRegisters_budget : (resetRegisters s).budget = 0 := rfl
@[simp] theorem resetRegisters_phase : (resetRegisters s).phase = .idle := rfl
@[simp] theorem resetRegisters_cnt : (resetRegisters s).cnt = 0 := rfl
@[simp] theorem resetRegisters_txbyte : (resetRegisters s).txbyte = 0#8 := rfl
@[simp] theorem resetRegisters_tx : (resetRegisters s).tx = true := rfl
@[simp] theorem resetRegisters_baudCnt : (resetRegisters s).baudCnt = 0 := rfl
@[simp] theorem resetRegisters_period : (resetRegisters s).period = s.period := rfl
@[simp] theorem resetRegisters_inputs : (resetRegisters s).inputs = s.inputs := rfl

/-! ### nextPeriod -/

@[simp] theorem nextPeriod_cfg : (nextPeriod s).cfg = s.cfg := rfl
@[simp] theorem nextPeriod_channelBuffer : (nextPeriod s).channelBuffer = s.channelBuffer := rfl
@[simp] theorem nextPeriod_activeChannelCount : (nextPeriod s).activeChannelCount = s.activeChannelCount := rfl
@[simp] theorem nextPeriod_engineRunning : (nextPeriod s).engineRunning = s.engineRunning := rfl
@[simp] theorem nextPeriod_frameCursor : (nextPeriod s).frameCursor = s.frameCursor := rfl
@[simp] theorem nextPeriod_outputBinding : (nextPeriod s).outputBinding = s.outputBinding := rfl
@[simp] theorem nextPeriod_budget : (nextPeriod s).budget = s.budget := rfl
@[simp] theorem nextPeriod_phase : (nextPeriod s).phase = s.phase := rfl
@[simp] theorem nextPeriod_cnt : (nextPeriod s).cnt = s.cnt := rfl
@[simp] theorem nextPeriod_txbyte : (nextPeriod s).txbyte = s.txbyte := rfl
@[simp] theorem nextPeriod_tx : (nextPeriod s).tx = s.tx := rfl
@[simp] theorem nextPeriod_baudCnt : (nextPeriod s).baudCnt = 0 := rfl
@[simp] theorem nextPeriod_period : (nextPeriod s).period = s.period + 1 := rfl
@[simp] theorem nextPeriod_inputs : (nextPeriod s).inputs = s.inputs.tail := rfl

/-! ### countClk -/

@[simp] theorem countClk_cfg : (countClk s).cfg = s.cfg := rfl
@[simp] theorem countClk_channelBuffer : (countClk s).channelBuffer = s.channelBuffer := rfl
@[simp] theorem countClk_activeChannelCount : (countClk s).activeChannelCount = s.activeChannelCount := rfl
@[simp] theorem countClk_engineRunning : (countClk s).engineRunning = s.engineRunning := rfl
@[simp] theorem countClk_frameCursor : (countClk s).frameCursor = s.frameCursor := rfl
@[simp] theorem countClk_outputBinding : (countClk s).outputBinding = s.outputBinding := rfl
@[simp] theorem countClk_budget : (countClk s).budget = s.budget := rfl
@[simp] theorem countClk_phase : (countClk s).phase = s.phase := rfl
@[simp] theorem countClk_cnt : (countClk s).cnt = s.cnt := rfl
@[simp] theorem countClk_txbyte : (countClk s).txbyte = s.txbyte := rfl
@[simp] theorem countClk_tx : (countClk s).tx = s.tx := rfl
@[simp] theorem countClk_baudCnt : (countClk s).baudCnt = s.baudCnt + 1 := rfl
@[simp] theorem countClk_period : (countClk s).period = s.period := rfl
@[simp] theorem countClk_inputs : (countClk s).inputs = s.inputs := rfl

/-! ### ensureRunning -/

@[simp] theorem ensureRunning_cfg : (ensureRunning s).cfg = s.cfg := by
  cases h : s.engineRunning <;> simp [ensureRunning, h]
@[simp] theorem ensureRunning_channelBuffer : (ensureRunning s).channelBuffer = s.channelBuffer := by
  cases h : s.engineRunning <;> simp [ensureRunning, h]
@[simp] theorem ensureRunning_activeChannelCount : (ensureRunning s).activeChannelCount = s.activeChannelCount := by
  cases h : s.engineRunning <;> simp [ensureRunning, h]
@[simp] theorem ensureRunning_engineRunning : (ensureRunning s).engineRunning = true := by
  cases h : s.engineRunning <;> simp [ensureRunning, h]
@[simp] theorem ensureRunning_frameCursor : (ensureRunning s).frameCursor = if s.engineRunning then s.frameCursor else 0 := by
  cases h : s.engineRunning <;> simp [ensureRunning, h]
@[simp] theorem ensureRunning_outputBinding : (ensureRunning s).outputBinding = s.outputBinding := by
  cases h : s.engineRunning <;> simp [ensureRunning, h]
@[simp] theorem ensureRunning_budget : (ensureRunning s).budget = s.budget := by
  cases h : s.engineRunning <;> simp [ensureRunning, h]
@[simp] theorem ensureRunning_phase : (ensureRunning s).phase = s.phase := by
  cases h : s.engineRunning <;> simp [ensureRunning, h]
@[simp] theorem ensureRunning_cnt : (ensureRunning s).cnt = s.cnt := by
  cases h : s.engineRunning <;> simp [ensureRunning, h]
@[simp] theorem ensureRunning_txbyte : (ensureRunning s).txbyte = s.txbyte := by
  cases h : s.engineRunning <;> simp [ensureRunning, h]
@[simp] theorem ensureRunning_tx : (ensureRunning s).tx = s.tx := by
  cases h : s.engineRunning <;> simp [ensureRunning, h]
@[simp] theorem ensureRunning_baudCnt : (ensureRunning s).baudCnt = s.baudCnt := by
  cases h : s.engineRunning <;> simp [ensureRunning, h]
@[simp] theorem ensureRunning_period : (ensureRunning s).period = s.period := by
  cases h : s.engineRunning <;> simp [ensureRunning, h]
@[simp] theorem ensureRunning_inputs : (ensureRunning s).inputs = s.inputs := by
  cases h : s.engineRunning <;> simp [ensureRunning, h]

/-- Starting a stopped engine, as one record update. -/
theorem ensureRunning_eq : ensureRunning s =
    { s with engineRunning := true, frameCursor := if s.engineRunning then s.frameCursor else 0 } := by
  ext <;> simp

@[simp] theorem tickReturn_eq : tickReturn s = enterPhase .idle s := rfl

end

end Machine
end Sys2Proof
end

