-- ==== Sys2Proof/Laws/Memory.lean ====
section
/-! SUPPORT. The laws of ChannelBuffer: a read after a write, and the canonical form kept by every operation that
writes the buffer (spec/20_memory.md R50, R51). -/

namespace Sys2Proof
namespace Machine

@[simp] theorem bufferRead_nil (i : Nat) : bufferRead [] i = 0#8 := rfl

theorem bufferRead_cons (j : Nat) (w : Byte) (m : Memory) (i : Nat) :
    bufferRead ((j, w) :: m) i = if i = j then w else bufferRead m i := rfl

/-- A buffer whose indices start at `lo` holds 0 below it. -/
theorem bufferRead_below {m : Memory} {lo i : Nat} (h : bufferWfFrom lo m = true) (hi : i < lo) :
    bufferRead m i = 0#8 := by
  induction m generalizing lo with
  | nil => rfl
  | cons c m ih =>
    obtain ⟨j, w⟩ := c
    simp only [bufferWfFrom, Bool.and_eq_true, decide_eq_true_eq] at h
    rw [bufferRead_cons, if_neg (by omega), ih h.2 (by omega)]

theorem bufferRead_bufferCons {m : Memory} {i : Nat} (h : bufferWfFrom (i + 1) m = true) (v : Byte) (a : Nat) :
    bufferRead (bufferCons i v m) a = if a = i then v else bufferRead m a := by
  unfold bufferCons
  split
  · next hv =>
    split
    · next ha => rw [ha, hv, bufferRead_below h (by omega)]
    · rfl
  · rfl

/-- The canonical form allows a smaller lower bound. -/
theorem bufferWfFrom_mono {m : Memory} {lo lo' : Nat} (h : bufferWfFrom lo m = true) (hlo : lo' ≤ lo) :
    bufferWfFrom lo' m = true := by
  cases m with
  | nil => rfl
  | cons c m =>
    simp only [bufferWfFrom, Bool.and_eq_true, decide_eq_true_eq] at h ⊢
    exact ⟨⟨⟨by omega, h.1.1.2⟩, h.1.2⟩, h.2⟩

theorem bufferWfFrom_bufferCons {m : Memory} {lo i : Nat} {v : Byte} (h : bufferWfFrom (i + 1) m = true)
    (hlo : lo ≤ i) (hi : i < 512) : bufferWfFrom lo (bufferCons i v m) = true := by
  unfold bufferCons
  split
  · exact bufferWfFrom_mono h (by omega)
  · simp [bufferWfFrom, *]

/-- Reading after a write: the written byte at its index, the byte of before everywhere else (R51). -/
theorem bufferRead_bufferWrite {m : Memory} {lo i : Nat} (h : bufferWfFrom lo m = true) (v : Byte) (a : Nat) :
    bufferRead (bufferWrite m i v) a = if a = i then v else bufferRead m a := by
  induction m generalizing lo with
  | nil => exact bufferRead_bufferCons rfl v a
  | cons c m ih =>
    obtain ⟨j, w⟩ := c
    have hc := h
    simp only [bufferWfFrom, Bool.and_eq_true, decide_eq_true_eq] at h
    unfold bufferWrite
    split
    · next hij => exact bufferRead_bufferCons (by simp [bufferWfFrom, h.1.1.2, h.1.2, h.2]; omega) v a
    · split
      · next hij =>
        rw [hij, bufferRead_bufferCons h.2, bufferRead_cons]
        split <;> rfl
      · rw [bufferRead_cons, bufferRead_cons, ih h.2]
        split
        · rw [if_neg (by omega)]
        · rfl

/-- A write inside the address space keeps the canonical form. -/
theorem bufferWfFrom_bufferWrite {m : Memory} {lo i : Nat} (h : bufferWfFrom lo m = true) (hlo : lo ≤ i) (hi : i < 512)
    (v : Byte) : bufferWfFrom lo (bufferWrite m i v) = true := by
  induction m generalizing lo with
  | nil => exact bufferWfFrom_bufferCons rfl hlo hi
  | cons c m ih =>
    obtain ⟨j, w⟩ := c
    have hc := h
    simp only [bufferWfFrom, Bool.and_eq_true, decide_eq_true_eq] at h
    unfold bufferWrite
    split
    · exact bufferWfFrom_bufferCons (by simp [bufferWfFrom, h.1.1.2, h.1.2, h.2]; omega) hlo hi
    · split
      · next hij => exact bufferWfFrom_bufferCons (hij ▸ h.2) hlo hi
      · simp only [bufferWfFrom, Bool.and_eq_true, decide_eq_true_eq]
        exact ⟨⟨⟨by omega, h.1.1.2⟩, h.1.2⟩, ih h.2 (by omega)⟩

/-- Equal reads make equal buffers: the form is canonical. -/
theorem buffer_ext {m n : Memory} {lo : Nat} (hm : bufferWfFrom lo m = true) (hn : bufferWfFrom lo n = true)
    (h : ∀ a, bufferRead m a = bufferRead n a) : m = n := by
  induction m generalizing n lo with
  | nil =>
    cases n with
    | nil => rfl
    | cons c n =>
      obtain ⟨j, w⟩ := c
      simp only [bufferWfFrom, Bool.and_eq_true, decide_eq_true_eq] at hn
      have := h j
      simp only [bufferRead_nil, bufferRead_cons, if_true] at this
      exact absurd this.symm hn.1.2
  | cons c m ih =>
    obtain ⟨j, w⟩ := c
    simp only [bufferWfFrom, Bool.and_eq_true, decide_eq_true_eq] at hm
    cases n with
    | nil =>
      have := h j
      simp only [bufferRead_nil, bufferRead_cons, if_true] at this
      exact absurd this hm.1.2
    | cons d n =>
      obtain ⟨k, v⟩ := d
      simp only [bufferWfFrom, Bool.and_eq_true, decide_eq_true_eq] at hn
      have hjk : j = k := by
        rcases Nat.lt_trichotomy j k with hlt | heq | hgt
        · have := h j
          rw [bufferRead_cons, if_pos rfl, bufferRead_cons, if_neg (by omega),
            bufferRead_below hn.2 (by omega)] at this
          exact absurd this hm.1.2
        · exact heq
        · have := h k
          rw [bufferRead_cons, if_neg (by omega), bufferRead_below hm.2 (by omega), bufferRead_cons,
            if_pos rfl] at this
          exact absurd this.symm hn.1.2
      subst hjk
      have hwv : w = v := by simpa [bufferRead_cons] using h j
      subst hwv
      congr 1
      refine ih hm.2 hn.2 fun a => ?_
      by_cases ha : a = j
      · rw [ha, bufferRead_below hm.2 (by omega), bufferRead_below hn.2 (by omega)]
      · simpa [bufferRead_cons, ha] using h a

/-! ## The primitives -/

/-- `MemRead` reads the buffer of an index in range, and stops outside (R50). -/
theorem memRead_eq (s : State) (i : Nat) :
    memRead s i = if i < 512 then .ok (bufferRead s.channelBuffer i) else .error (.noSuchSlot i) := rfl

/-- `MemRead` depends on the buffer alone. -/
theorem memRead_congr {s t : State} (h : t.channelBuffer = s.channelBuffer) (i : Nat) : memRead t i = memRead s i := by
  rw [memRead_eq, memRead_eq, h]

/-- All that `MemWrite` can do: in range it answers, and changes the buffer and nothing else. -/
theorem memWrite_eq_ok {s t : State} {i : Nat} {v : Byte} :
    memWrite s i v = .ok t ↔ i < 512 ∧ t = { s with channelBuffer := bufferWrite s.channelBuffer i v } := by
  unfold memWrite
  split <;> simp_all [eq_comm]

/-- Every buffer write keeps the canonical form. -/
theorem memWrite_wf {s t : State} {i : Nat} {v : Byte} (h : memWrite s i v = .ok t) (hs : s.channelBuffer.wf = true) :
    t.channelBuffer.wf = true := by
  obtain ⟨hi, rfl⟩ := memWrite_eq_ok.mp h
  exact bufferWfFrom_bufferWrite hs (Nat.zero_le i) hi v

/-- The buffer after reset is in canonical form. -/
theorem reset_bufferWf : State.reset.channelBuffer.wf = true := rfl

end Machine
end Sys2Proof
end

