-- ==== Sys2Proof/Laws/Ops.lean ====
section
/-! SUPPORT. What each meaning and each edge can do, said once: an equation where the outcome is always a next state,
an inversion ("if it answers next t, then one of these cases holds") where it has cases. -/

namespace Sys2Proof
namespace Machine

/-! ## Outcomes -/

@[simp] theorem andThen_next (s : State) (f : State → Result) : andThen (.next s) f = f s := rfl
@[simp] theorem andThen_fault (r : Fault) (f : State → Result) : andThen (.fault r) f = .fault r := rfl
@[simp] theorem andThen_refused (r : Refusal) (f : State → Result) : andThen (.refused r) f = .refused r := rfl
@[simp] theorem nextState_next (s : State) : nextState (.next s) = some s := rfl

/-- A sequence answers a next state exactly when both its parts do. -/
theorem andThen_eq_next {o : Result} {f : State → Result} {t : State} :
    andThen o f = .next t ↔ ∃ u, o = .next u ∧ f u = .next t := by
  cases o <;> simp

/-! ## Primitives and transitions -/

theorem execSetline_eq (level : Level) (s : State) : execSetline level s = .next { s with tx := level } := rfl

theorem execSendbyte_eq (b : Byte) (s : State) :
    execSendbyte b s = .next { s with phase := .slot, cnt := 0, txbyte := b, tx := false } := rfl

theorem execBrk_eq (s : State) : execBrk s = .next { s with phase := .brk, cnt := 0, tx := false } := rfl

theorem slotAdvance_eq (s : State) :
    slotAdvance s = .next { s with cnt := s.cnt + 1, tx := slotLevel s.txbyte (s.cnt + 1) } := rfl

/-- CHANNEL(k) on a slot of the buffer sends its byte. -/
theorem execChannel_eq {k : Nat} (h1 : 1 ≤ k) (h2 : k ≤ 512) (s : State) :
    execChannel k s =
      .next { s with phase := .slot, cnt := 0, txbyte := bufferRead s.channelBuffer (k - 1), tx := false } := by
  unfold execChannel
  rw [if_neg (by omega), memRead_eq, if_pos (by omega)]
  rfl

/-- CHANNEL(k) answers a next state only for a slot of the buffer. -/
theorem execChannel_next {k : Nat} {s t : State} (h : execChannel k s = .next t) :
    1 ≤ k ∧ k ≤ 512 ∧
      t = { s with phase := .slot, cnt := 0, txbyte := bufferRead s.channelBuffer (k - 1), tx := false } := by
  by_cases hk : 1 ≤ k ∧ k ≤ 512
  · rw [execChannel_eq hk.1 hk.2] at h
    exact ⟨hk.1, hk.2, by simpa using h.symm⟩
  · unfold execChannel at h
    split at h
    · cases h
    · rw [memRead_eq, if_neg (by omega)] at h
      cases h

/-! ## Commands -/

theorem execWrite_inRange {channel : Int} (h : 1 ≤ channel ∧ channel ≤ 512) (value : Int) (s : State) :
    execWrite channel value s = .next (normalise { ensureRunning s with
      channelBuffer := bufferWrite s.channelBuffer (channelIndex channel) (clamp8 value)
      activeChannelCount := max s.activeChannelCount channel.toNat }) := by
  have hi : channelIndex channel < Config.nChannels := by simp only [channelIndex, Config.nChannels]; omega
  simp [execWrite, channelInRange, h, memWrite, hi, setCount]

theorem execWrite_outOfRange {channel : Int} (h : ¬(1 ≤ channel ∧ channel ≤ 512)) (value : Int) (s : State) :
    execWrite channel value s = .next (normalise (ensureRunning s)) := by
  simp only [execWrite, channelInRange, h, decide_false]
  rfl

theorem execSetmax_stop {channel : Int} (h : channel ≤ 0) (s : State) :
    execSetmax channel s = .next (normalise (setCount 0 (engineStop s))) := if_pos h

theorem execSetmax_set {channel : Int} (h : ¬channel ≤ 0) (s : State) :
    execSetmax channel s = .next (normalise (ensureRunning (setCount (saturateCount channel) s))) := if_neg h

theorem execSelline_eq (line : LineId) (s : State) :
    execSelline line s = .next (normalise { s with
      outputBinding := line, frameCursor := if s.engineRunning then 0 else s.frameCursor }) := by
  obtain ⟨_, _, _, run, _, _, _, _, _, _, _, _, _, _⟩ := s
  cases run <;> rfl

theorem execRsvd_eq (s : State) : execRsvd s = .next (normalise s) := rfl

/-- `Normalise()` cannot fire where the cursor is inside the frame. -/
theorem normalise_of_le {s : State} (h : s.frameCursor ≤ s.activeChannelCount) : normalise s = s := by
  unfold normalise
  rw [if_neg (by omega)]

/-- After any command the cursor is inside the frame. -/
theorem normalise_cursor_le (s : State) : (normalise s).frameCursor ≤ (normalise s).activeChannelCount := by
  simp only [normalise_frameCursor, normalise_activeChannelCount]
  split <;> omega

/-- Every command word decodes to one of the four commands. -/
theorem decodeCommand_isCommand (w : CmdWord) : isCommand (decodeCommand w) = true := by
  unfold decodeCommand
  split <;> rfl

/-- A command always answers a next state, and touches neither the engine's registers nor the outside world. -/
theorem exec_command {i : Instr} (h : isCommand i = true) (s : State) :
    ∃ t, exec i s = .next t ∧ SameEngine s t ∧ SameWorld s t := by
  cases i
  case write c v =>
    by_cases hc : 1 ≤ c ∧ c ≤ 512
    · exact ⟨_, execWrite_inRange hc v s, by simp [SameEngine, SameWorld]⟩
    · exact ⟨_, execWrite_outOfRange hc v s, by simp [SameEngine, SameWorld]⟩
  case setmax c =>
    by_cases hc : c ≤ 0
    · exact ⟨_, execSetmax_stop hc s, by simp [SameEngine, SameWorld]⟩
    · exact ⟨_, execSetmax_set hc s, by simp [SameEngine, SameWorld]⟩
  case selline line => exact ⟨_, execSelline_eq line s, by simp [SameEngine, SameWorld]⟩
  case rsvd => exact ⟨_, rfl, by simp [SameEngine, SameWorld]⟩
  all_goals exact absurd h (by simp [isCommand])

/-! ## Dispatch and tick -/

/-- `BUDGET_BITS` is the floor of 00_scope.md R9 wherever that has a value. -/
theorem budgetBits_eq {c : Config} (h : 0 < c.budgetDen) :
    budgetBits c = c.tickBits * c.budgetNum / c.budgetDen := if_neg (by omega)

theorem cost_break {s : State} (h : s.frameCursor = 0) : cost s.frameCursor = 35 := if_pos h

theorem cost_channel {s : State} (h : 1 ≤ s.frameCursor) : cost s.frameCursor = 11 := if_neg (by omega)

/-- BREAK is dispatched at cursor 0 when its cost fits. -/
theorem dispatch_break {s : State} (h0 : s.frameCursor = 0) (hb : 35 ≤ s.budget) :
    dispatch s = .next { s with budget := s.budget - 35, phase := .brk, cnt := 0, tx := false } := by
  unfold dispatch
  rw [cost_break h0, if_pos hb]
  exact if_pos h0

/-- CHANNEL is dispatched at a cursor in range when its cost fits. -/
theorem dispatch_channel {s : State} (h1 : 1 ≤ s.frameCursor) (h2 : s.frameCursor ≤ 512) (hb : 11 ≤ s.budget) :
    dispatch s = .next { s with budget := s.budget - 11, phase := .slot, cnt := 0,
                                txbyte := bufferRead s.channelBuffer (s.frameCursor - 1), tx := false } := by
  unfold dispatch startTransition
  rw [cost_channel h1, if_pos hb, setBudget_frameCursor, if_neg (by omega), execChannel_eq h1 h2]
  rfl

/-- The tick returns when the next cost does not fit. -/
theorem dispatch_return {s : State} (h : s.budget < cost s.frameCursor) :
    dispatch s = .next { s with phase := .idle, cnt := 0 } := if_neg (by omega)

/-- `Dispatch()` answers a next state in exactly three ways. -/
theorem dispatch_cases {s t : State} (h : dispatch s = .next t) :
    (s.frameCursor = 0 ∧ 35 ≤ s.budget ∧
        t = { s with budget := s.budget - 35, phase := .brk, cnt := 0, tx := false }) ∨
      (1 ≤ s.frameCursor ∧ s.frameCursor ≤ 512 ∧ 11 ≤ s.budget ∧
        t = { s with budget := s.budget - 11, phase := .slot, cnt := 0,
                     txbyte := bufferRead s.channelBuffer (s.frameCursor - 1), tx := false }) ∨
      (s.budget < cost s.frameCursor ∧ t = { s with phase := .idle, cnt := 0 }) := by
  by_cases hc : s.budget < cost s.frameCursor
  · rw [dispatch_return hc] at h
    exact .inr (.inr ⟨hc, (Host.Outcome.next.inj h).symm⟩)
  · by_cases h0 : s.frameCursor = 0
    · rw [cost_break h0] at hc
      rw [dispatch_break h0 (by omega)] at h
      exact .inl ⟨h0, by omega, (Host.Outcome.next.inj h).symm⟩
    · have h1 : 1 ≤ s.frameCursor := by omega
      rw [cost_channel h1] at hc
      unfold dispatch startTransition at h
      rw [cost_channel h1, if_pos (by omega), setBudget_frameCursor, if_neg h0] at h
      obtain ⟨-, h2, rfl⟩ := execChannel_next h
      exact .inr (.inl ⟨h1, h2, by omega, rfl⟩)

/-- `Dispatch()` answers a next state wherever the cursor is in its range. -/
theorem dispatch_completes {s : State} (h : s.frameCursor ≤ 512) : ∃ t, dispatch s = .next t := by
  by_cases hc : s.budget < cost s.frameCursor
  · exact ⟨_, dispatch_return hc⟩
  · by_cases h0 : s.frameCursor = 0
    · exact ⟨_, dispatch_break h0 (by rw [cost_break h0] at hc; omega)⟩
    · have h1 : 1 ≤ s.frameCursor := by omega
      exact ⟨_, dispatch_channel h1 h (by rw [cost_channel h1] at hc; omega)⟩

/-- A pulse of `tick` that is not accepted has no effect. -/
theorem execTick_ignored {s : State} (h : s.phase ≠ .idle ∨ s.engineRunning = false) : execTick s = .next s := by
  unfold execTick tickAccepted
  rcases h with h | h <;> simp [h]

/-- An accepted pulse loads the budget and dispatches. -/
theorem execTick_accepted {s : State} (hp : s.phase = .idle) (hr : s.engineRunning = true) :
    execTick s = dispatch { s with budget := budgetBits s.cfg } := by
  simp [execTick, tickAccepted, hp, hr, tickEntry, setBudget]

/-! ## Edges -/

theorem breakEdge_eq (s : State) :
    breakEdge s = .next (if s.cnt + 1 < s.cfg.breakBits then { s with cnt := s.cnt + 1 }
      else { s with phase := .mab, cnt := 0, tx := true }) := by
  unfold breakEdge
  split <;> rfl

theorem markEdge_eq (s : State) :
    markEdge s = .next (if s.cnt + 1 < s.cfg.mabBits then { s with cnt := s.cnt + 1 }
      else { s with phase := .slot, cnt := 0, txbyte := 0x00#8, tx := false }) := by
  unfold markEdge
  split <;> rfl

theorem slotEdge_eq (s : State) :
    slotEdge s = if s.cnt < 10 then .next { s with cnt := s.cnt + 1, tx := slotLevel s.txbyte (s.cnt + 1) }
      else dispatch { s with frameCursor := nextCursor s.activeChannelCount s.frameCursor } := rfl

/-- The command of an idle edge: one of the four commands or none. -/
theorem commandEdge_next {i : Inputs} {s u : State} (h : commandEdge i s = .next u) :
    (i.cmdValid = false ∧ u = s) ∨ (i.cmdValid = true ∧ exec (decodeCommand i.cmdWord) s = .next u) := by
  cases hv : i.cmdValid <;> simp [commandEdge, presentedCommand, hv] at h ⊢
  · exact h.symm
  · exact h

theorem edgeOn_rst {i : Inputs} {s : State} (hr : i.rst = true) : edgeOn i s = .next (resetRegisters s) := by
  simp [edgeOn, hr]

theorem edgeOn_idle {i : Inputs} {s : State} (hr : i.rst = false) (hp : s.phase = .idle) :
    edgeOn i s = idleEdge i s := by
  simp [edgeOn, hr, hp]

theorem edgeOn_brk {i : Inputs} {s : State} (hr : i.rst = false) (hp : s.phase = .brk) :
    edgeOn i s = breakEdge s := by
  simp [edgeOn, hr, hp]

theorem edgeOn_mab {i : Inputs} {s : State} (hr : i.rst = false) (hp : s.phase = .mab) :
    edgeOn i s = markEdge s := by
  simp [edgeOn, hr, hp]

theorem edgeOn_slot {i : Inputs} {s : State} (hr : i.rst = false) (hp : s.phase = .slot) :
    edgeOn i s = slotEdge s := by
  simp [edgeOn, hr, hp]

/-- All that an edge can do. -/
theorem edgeOn_cases {i : Inputs} {s t : State} (h : edgeOn i s = .next t) :
    (i.rst = true ∧ t = resetRegisters s) ∨
    (i.rst = false ∧ s.phase = .idle ∧ ∃ u, commandEdge i s = .next u ∧ pulseEdge i u = .next t) ∨
    (i.rst = false ∧ s.phase = .brk ∧ t = if s.cnt + 1 < s.cfg.breakBits then { s with cnt := s.cnt + 1 }
      else { s with phase := .mab, cnt := 0, tx := true }) ∨
    (i.rst = false ∧ s.phase = .mab ∧ t = if s.cnt + 1 < s.cfg.mabBits then { s with cnt := s.cnt + 1 }
      else { s with phase := .slot, cnt := 0, txbyte := 0x00#8, tx := false }) ∨
    (i.rst = false ∧ s.phase = .slot ∧ s.cnt < 10 ∧
      t = { s with cnt := s.cnt + 1, tx := slotLevel s.txbyte (s.cnt + 1) }) ∨
    (i.rst = false ∧ s.phase = .slot ∧ 10 ≤ s.cnt ∧
      dispatch { s with frameCursor := nextCursor s.activeChannelCount s.frameCursor } = .next t) := by
  cases hr : i.rst
  · have hp : s.phase = .idle ∨ s.phase = .brk ∨ s.phase = .mab ∨ s.phase = .slot := by
      cases s.phase <;> decide
    rcases hp with hp | hp | hp | hp
    · rw [edgeOn_idle hr hp] at h
      exact .inr (.inl ⟨rfl, hp, andThen_eq_next.mp h⟩)
    · rw [edgeOn_brk hr hp, breakEdge_eq] at h
      exact .inr (.inr (.inl ⟨rfl, hp, (Host.Outcome.next.inj h).symm⟩))
    · rw [edgeOn_mab hr hp, markEdge_eq] at h
      exact .inr (.inr (.inr (.inl ⟨rfl, hp, (Host.Outcome.next.inj h).symm⟩)))
    · rw [edgeOn_slot hr hp, slotEdge_eq] at h
      split at h
      · next hc => exact .inr (.inr (.inr (.inr (.inl ⟨rfl, hp, hc, (Host.Outcome.next.inj h).symm⟩))))
      · next hc => exact .inr (.inr (.inr (.inr (.inr ⟨rfl, hp, by omega, h⟩))))
  · rw [edgeOn_rst hr] at h
    exact .inl ⟨rfl, (Host.Outcome.next.inj h).symm⟩

/-- A step is a `clk` cycle inside a bit period, or the edge that ends it. -/
theorem step_cases {s t : State} (h : step s = .next t) :
    (s.baudCnt + 1 < s.cfg.clksPerBit ∧ t = countClk s) ∨
    (s.cfg.clksPerBit ≤ s.baudCnt + 1 ∧ edge s = .next t) := by
  unfold step clkCycle bitTick at h
  by_cases hb : s.baudCnt + 1 < s.cfg.clksPerBit
  · exact .inl ⟨hb, by simpa [hb] using h.symm⟩
  · exact .inr ⟨by omega, by simpa [hb] using h⟩

/-- In the last `clk` cycle of a bit period a step is the edge. -/
theorem step_eq_edge {s : State} (h : bitTick s = true) : step s = edge s := by
  simp [step, clkCycle, h]

/-! ## Inputs -/

@[simp] theorem inputAt_nextPeriod (s : State) (j : Nat) : inputAt (nextPeriod s) j = inputAt s (j + 1) := by
  simp [inputAt, Nat.add_assoc, Nat.add_comm 1 j]

theorem inputAt_congr {s t : State} (hi : t.inputs = s.inputs) (hp : t.period = s.period) (j : Nat) :
    inputAt t j = inputAt s j := by
  simp [inputAt, hi, hp]

end Machine
end Sys2Proof
end

