-- ==== Sys2Proof/Laws/PerInstr.lean ====
section
/-! SUPPORT. The families of statements made per operation, one lemma for each constructor of `Instr`. -/

namespace Sys2Proof.Laws

/-- The columns `mask` and `match` of an operation's row in spec/opcode_table.json. -/
def tableRow : Instr → Nat × Nat
  | .write _ _ => (0x300000000, 0x000000000)
  | .setmax _ => (0x300000000, 0x100000000)
  | .selline _ => (0x300000000, 0x200000000)
  | .rsvd => (0x300000000, 0x300000000)
  | .brk => (0x3FF, 0x000)
  | .channel _ => (0x000, 0x000)
  | .sendbyte _ => (0x403, 0x003)
  | .setline _ => (0x0, 0x0)
  | .tick => (0x1, 0x1)

/-- The number of a word in the table's bit numbering. -/
def wordNumber : OpWord → Nat
  | .command w => w.toNat
  | .cursor c => c.toNat
  | .slot w => w.toNat
  | .level l => l.toNat
  | .event t => t.toNat

/-- Family TableMatch: the word of an operation is an instance of its own row of the table, `w AND mask = match`
(30_encoding.md R76). -/
def TableMatch.Statement (i : Instr) : Prop := wordNumber (encode i) &&& (tableRow i).1 = (tableRow i).2

theorem and_opMask_number (op : BitVec 2) (a v : BitVec 16) :
    (cmdWord op a v).toNat &&& 0x300000000 = (cmdWord op 0#16 0#16).toNat := by
  have h := congrArg BitVec.toNat (and_opMask (cmdWord op a v))
  rwa [cmdOp_cmdWord, BitVec.toNat_and] at h

namespace TableMatch

theorem write (channel value : Int) : Statement (.write channel value) := and_opMask_number _ _ _
theorem setmax (channel : Int) : Statement (.setmax channel) := and_opMask_number _ _ _
theorem selline (line : LineId) : Statement (.selline line) := and_opMask_number _ _ _
theorem rsvd : Statement .rsvd := and_opMask_number _ _ _
theorem brk : Statement .brk := rfl
theorem channel (k : Nat) : Statement (.channel k) := Nat.and_zero _
theorem sendbyte (b : Byte) : Statement (.sendbyte b) := by
  revert b
  unfold Statement
  decide
theorem setline (level : Level) : Statement (.setline level) := Nat.and_zero _
theorem tick : Statement .tick := rfl

end TableMatch

end Sys2Proof.Laws
end

