-- ==== Sys2Proof/Tests/Slice0.lean ====
section
/-! SUPPORT. Tests of the model, each expected result copied from spec/95_test_vectors.md or worked out by hand from
the rule named, and one witness per statement that has hypotheses. -/

namespace Sys2Proof.Tests

open Sys2Proof.Machine

/-! ## Small states -/

/-- The parameters of 95_test_vectors.md but for the tick period. -/
def config (tickBits : Nat) : Config := { tickBits := tickBits, lineReset := 0x0000#16, validLines := [0x0000#16] }

/-- A period that presents the command word `w`. -/
def command (w : CmdWord) : Inputs := { quietInputs with cmdValid := true, cmdWord := w }

/-- A period with a pulse. -/
def pulse : Inputs := { quietInputs with tick := true }

/-- The state after reset; the first period has the inputs `i`, the next `n` present nothing. -/
def freshWith (tickBits : Nat) (i : Inputs) (n : Nat) : State :=
  { State.resetWith (config tickBits) with inputs := i :: List.replicate n quietInputs }

/-- The state after reset, nothing presented. -/
def fresh : State := freshWith 256 quietInputs 50

/-- Running and idle with the given count and cursor; slot 0 holds 255 and slot 2 holds 128. -/
def idleAt (tickBits count cursor : Nat) (i : Inputs) (n : Nat) : State :=
  { freshWith tickBits i n with
    channelBuffer := [(0, 255#8), (2, 128#8)], activeChannelCount := count, engineRunning := true,
    frameCursor := cursor }

/-- Running with the break in flight, in its period `cnt`. -/
def inBreak (cnt : Nat) (i : Inputs) (n : Nat) : State :=
  { idleAt 256 3 0 i n with phase := .brk, cnt := cnt, tx := false, budget := 29 }

/-- Running with the mark in flight, in its period `cnt`. -/
def inMark (cnt : Nat) (i : Inputs) (n : Nat) : State :=
  { idleAt 256 3 0 i n with phase := .mab, cnt := cnt, tx := true, budget := 29 }

/-- Running with a slot of `b` in flight, in its period `cnt`, with `budget` left. -/
def inSlot (count cursor : Nat) (b : Byte) (cnt budget : Nat) (i : Inputs) (n : Nat) : State :=
  { idleAt 256 count cursor i n with
    phase := .slot, cnt := cnt, txbyte := b, tx := slotLevel b cnt, budget := budget }

/-- A state as 95_test_vectors.md writes it: (count, running, cursor, line), and the slots that are not 0. -/
structure HostView where
  count : Nat
  running : Bool
  cursor : Nat
  line : LineId
  buffer : Memory
  deriving DecidableEq, Repr

/-- The registers of a transition in flight, and the cursor. -/
structure EngineView where
  phase : Phase
  cnt : Nat
  txbyte : Byte
  tx : Level
  budget : Nat
  cursor : Nat
  deriving DecidableEq, Repr

def hostView (o : Result) : Option HostView :=
  (nextState o).map fun s =>
    ⟨s.activeChannelCount, s.engineRunning, s.frameCursor, s.outputBinding, s.channelBuffer⟩

def engineView (o : Result) : Option EngineView :=
  (nextState o).map fun s => ⟨s.phase, s.cnt, s.txbyte, s.tx, s.budget, s.frameCursor⟩

/-! ## WellFormed: one ill-formed term per check -/

theorem test_illFormed_write_channel : (Instr.write 32768 0).wellFormed = false := by decide
theorem test_illFormed_write_channel_low : (Instr.write (-32769) 0).wellFormed = false := by decide
theorem test_illFormed_write_value : (Instr.write 0 32768).wellFormed = false := by decide
theorem test_illFormed_write_value_low : (Instr.write 0 (-32769)).wellFormed = false := by decide
theorem test_illFormed_setmax : (Instr.setmax 32768).wellFormed = false := by decide
theorem test_illFormed_setmax_low : (Instr.setmax (-32769)).wellFormed = false := by decide
theorem test_illFormed_channel_zero : (Instr.channel 0).wellFormed = false := by decide
theorem test_illFormed_channel_high : (Instr.channel 513).wellFormed = false := by decide

/-! ## Decoding: words written out bit by bit from 30_encoding.md -/

/-- V53 and V54. -/
theorem test_decode_write :
    decode (.command 0b00_0000000000000011_0000000010000000#34) = .ok (.write 3 128) ∧
    decode (.command 0b00_1111111111111101_0000000000000111#34) = .ok (.write (-3) 7) := by decide

/-- V55 and V56. -/
theorem test_decode_setmax :
    decode (.command 0b01_0000000000000011_0000000000000000#34) = .ok (.setmax 3) ∧
    decode (.command 0b01_0000000000000011_1010101111001101#34) = .ok (.setmax 3) := by decide

/-- V57. -/
theorem test_decode_selline :
    decode (.command 0b10_0000000000000101_0000000000000000#34) = .ok (.selline 0x0005#16) := by decide

/-- V58 and V52. -/
theorem test_decode_rsvd :
    decode (.command 0b11_1111111111111111_1111111111111111#34) = .ok .rsvd ∧
    decode (.command 0b11_0001001000110100_0101011001111000#34) = .ok .rsvd := by decide

/-- 30_encoding.md R79. -/
theorem test_decode_cursor :
    decode (.cursor 0b0000000000#10) = .ok .brk ∧ decode (.cursor 0b0000000001#10) = .ok (.channel 1) ∧
    decode (.cursor 0b1000000000#10) = .ok (.channel 512) ∧
    decode (.cursor 0b1000000001#10) = .error .cursorOutOfRange := by decide

/-- V1 to V8, the levels as 95_test_vectors.md lists them. -/
theorem test_decode_slot :
    decode (.slot 0b00000000011#11) = .ok (.sendbyte 0x00#8) ∧
    decode (.slot 0b01111111111#11) = .ok (.sendbyte 0xFF#8) ∧
    decode (.slot 0b01000000011#11) = .ok (.sendbyte 0x01#8) ∧
    decode (.slot 0b00000000111#11) = .ok (.sendbyte 0x80#8) ∧
    decode (.slot 0b01010101011#11) = .ok (.sendbyte 0x55#8) ∧
    decode (.slot 0b00101010111#11) = .ok (.sendbyte 0xAA#8) ∧
    decode (.slot 0b01111111011#11) = .ok (.sendbyte 0x7F#8) ∧
    decode (.slot 0b00111111111#11) = .ok (.sendbyte 0xFE#8) := by decide

/-- 30_encoding.md R70: no start bit, no stop bits. -/
theorem test_decode_slot_rejects :
    decode (.slot 0b10000000011#11) = .error .noStartBit ∧
    decode (.slot 0b00000000010#11) = .error .noStopBits ∧
    decode (.slot 0b00000000001#11) = .error .noStopBits := by decide

/-- 30_encoding.md R79. -/
theorem test_decode_level_and_event :
    decode (.level 0b0#1) = .ok (.setline false) ∧ decode (.level 0b1#1) = .ok (.setline true) ∧
    decode (.event 0b1#1) = .ok .tick ∧ decode (.event 0b0#1) = .error .noPulse := by decide

/-- One word of every table row, in the table's own width and in whole bytes. -/
theorem test_decodeTableWord :
    decodeTableWord 34 0x000030080 = some (.write 3 128) ∧ decodeTableWord 40 0x000030080 = some (.write 3 128) ∧
    decodeTableWord 40 0x10003ABCD = some (.setmax 3) ∧ decodeTableWord 40 0x200050000 = some (.selline 5#16) ∧
    decodeTableWord 40 0x3FFFFFFFF = some .rsvd ∧ decodeTableWord 40 0x400000000 = none ∧
    decodeTableWord 16 0x000 = some .brk ∧ decodeTableWord 16 0x200 = some (.channel 512) ∧
    decodeTableWord 16 0x201 = none ∧ decodeTableWord 16 0x203 = some (.sendbyte 0x01#8) ∧
    decodeTableWord 11 0x003 = some (.sendbyte 0x00#8) ∧ decodeTableWord 10 0x003 = some (.channel 3) ∧
    decodeTableWord 8 0 = some (.setline false) ∧ decodeTableWord 8 1 = some .tick := by decide

/-! ## Host commands -/

/-- V30, V31, V32, V37 to V42: from reset, in range, the value clamped at both ends. -/
theorem test_write_in_range :
    hostView (exec (.write 1 255) fresh) = some ⟨1, true, 0, 0x0000#16, [(0, 255#8)]⟩ ∧
    hostView (exec (.write 512 9) fresh) = some ⟨512, true, 0, 0x0000#16, [(511, 9#8)]⟩ ∧
    hostView (exec (.write 3 128) fresh) = some ⟨3, true, 0, 0x0000#16, [(2, 128#8)]⟩ ∧
    hostView (exec (.write 5 300) fresh) = some ⟨5, true, 0, 0x0000#16, [(4, 255#8)]⟩ ∧
    hostView (exec (.write 5 (-1)) fresh) = some ⟨5, true, 0, 0x0000#16, []⟩ ∧
    hostView (exec (.write 2 256) fresh) = some ⟨2, true, 0, 0x0000#16, [(1, 255#8)]⟩ ∧
    hostView (exec (.write 1 (-32768)) fresh) = some ⟨1, true, 0, 0x0000#16, []⟩ ∧
    hostView (exec (.write 1 32767) fresh) = some ⟨1, true, 0, 0x0000#16, [(0, 255#8)]⟩ := by decide

/-- V34 to V36 and V27: out of range starts the engine and does nothing else; a running engine keeps its cursor. -/
theorem test_write_out_of_range :
    hostView (exec (.write 513 7) fresh) = some ⟨0, true, 0, 0x0000#16, []⟩ ∧
    hostView (exec (.write 0 7) fresh) = some ⟨0, true, 0, 0x0000#16, []⟩ ∧
    hostView (exec (.write (-3) 7) fresh) = some ⟨0, true, 0, 0x0000#16, []⟩ ∧
    hostView (exec (.write 9 1) (idleAt 256 5 3 quietInputs 0)) =
      some ⟨9, true, 3, 0x0000#16, [(0, 255#8), (2, 128#8), (8, 1#8)]⟩ := by decide

/-- V43, V44 and V44b: an explicit start, and saturation at 512. -/
theorem test_setmax_starts :
    hostView (exec (.setmax 3) fresh) = some ⟨3, true, 0, 0x0000#16, []⟩ ∧
    hostView (exec (.setmax 512) fresh) = some ⟨512, true, 0, 0x0000#16, []⟩ ∧
    hostView (exec (.setmax 600) fresh) = some ⟨512, true, 0, 0x0000#16, []⟩ ∧
    hostView (exec (.setmax 32767) fresh) = some ⟨512, true, 0, 0x0000#16, []⟩ := by decide

/-- V24 to V26, V29 and V46: shrinking below the cursor, at it and above it; stopping. -/
theorem test_setmax_running :
    hostView (exec (.setmax 2) (idleAt 256 5 3 quietInputs 0)) =
      some ⟨2, true, 0, 0x0000#16, [(0, 255#8), (2, 128#8)]⟩ ∧
    hostView (exec (.setmax 3) (idleAt 256 5 3 quietInputs 0)) =
      some ⟨3, true, 3, 0x0000#16, [(0, 255#8), (2, 128#8)]⟩ ∧
    hostView (exec (.setmax 9) (idleAt 256 5 3 quietInputs 0)) =
      some ⟨9, true, 3, 0x0000#16, [(0, 255#8), (2, 128#8)]⟩ ∧
    hostView (exec (.setmax 0) (idleAt 256 5 3 quietInputs 0)) =
      some ⟨0, false, 0, 0x0000#16, [(0, 255#8), (2, 128#8)]⟩ ∧
    hostView (exec (.setmax (-1)) (idleAt 256 5 3 quietInputs 0)) =
      some ⟨0, false, 0, 0x0000#16, [(0, 255#8), (2, 128#8)]⟩ := by decide

/-- V49 and V51: on a stopped engine only the binding changes; a running one restarts and keeps its count. -/
theorem test_selline :
    hostView (exec (.selline 5#16) fresh) = some ⟨0, false, 0, 0x0005#16, []⟩ ∧
    hostView (exec (.selline 7#16) (idleAt 256 5 3 quietInputs 0)) =
      some ⟨5, true, 0, 0x0007#16, [(0, 255#8), (2, 128#8)]⟩ := by decide

/-- V52 and V28. -/
theorem test_rsvd :
    hostView (exec .rsvd fresh) = some ⟨0, false, 0, 0x0000#16, []⟩ ∧
    hostView (exec .rsvd (idleAt 256 5 3 quietInputs 0)) =
      some ⟨5, true, 3, 0x0000#16, [(0, 255#8), (2, 128#8)]⟩ := by decide

/-! ## The line, the slot, the transitions -/

/-- 40_line_driver.md R90. -/
theorem test_setline :
    (nextState (exec (.setline false) fresh)).map (·.tx) = some false ∧
    (nextState (exec (.setline true) (inBreak 3 quietInputs 0))).map (·.tx) = some true := by decide

/-- V10: the first period of a slot. -/
theorem test_sendbyte : engineView (exec (.sendbyte 0x80#8) fresh) = some ⟨.slot, 0, 0x80#8, false, 0, 0⟩ := by decide

/-- V1 to V9: the levels of a slot. -/
theorem test_slot_levels :
    (List.range 11).map (slotLevel 0x01#8) =
      [false, true, false, false, false, false, false, false, false, true, true] ∧
    (List.range 11).map (slotLevel 0x80#8) =
      [false, false, false, false, false, false, false, false, true, true, true] ∧
    (List.range 11).map (slotLevel 0x2C#8) =
      [false, false, false, true, true, false, true, false, false, true, true] := by decide

/-- V14: the first period of the break. -/
theorem test_brk : engineView (exec .brk (idleAt 256 3 0 quietInputs 0)) = some ⟨.brk, 0, 0x00#8, false, 0, 0⟩ := by
  decide

/-- V14: the edges that end the break and the mark. -/
theorem test_break_and_mark_end :
    engineView (step (inBreak 20 quietInputs 0)) = some ⟨.brk, 21, 0x00#8, false, 29, 0⟩ ∧
    engineView (step (inBreak 21 quietInputs 0)) = some ⟨.mab, 0, 0x00#8, true, 29, 0⟩ ∧
    engineView (step (inMark 0 quietInputs 0)) = some ⟨.mab, 1, 0x00#8, true, 29, 0⟩ ∧
    engineView (step (inMark 1 quietInputs 0)) = some ⟨.slot, 0, 0x00#8, false, 29, 0⟩ := by decide

/-- V10 and 42_frame_sequencer.md R120: CHANNEL(3) latches index 2. -/
theorem test_channel :
    engineView (exec (.channel 3) (idleAt 256 3 3 quietInputs 0)) = some ⟨.slot, 0, 0x80#8, false, 0, 3⟩ ∧
    engineView (exec (.channel 512) (idleAt 256 512 512 quietInputs 0)) = some ⟨.slot, 0, 0x00#8, false, 0, 512⟩ := by
  decide

/-- V17 to V23: cursor advance and wrap, with no budget left. -/
theorem test_cursor_advance :
    (nextState (step (inSlot 3 0 0x00#8 10 7 quietInputs 0))).map (·.frameCursor) = some 1 ∧
    (nextState (step (inSlot 3 3 0x80#8 10 7 quietInputs 0))).map (·.frameCursor) = some 0 ∧
    (nextState (step (inSlot 0 0 0x00#8 10 7 quietInputs 0))).map (·.frameCursor) = some 0 ∧
    (nextState (step (inSlot 512 511 0x00#8 10 7 quietInputs 0))).map (·.frameCursor) = some 512 ∧
    (nextState (step (inSlot 512 512 0x00#8 10 7 quietInputs 0))).map (·.frameCursor) = some 0 := by decide

/-! ## The tick -/

/-- V59, V60 and V61: 64 to 29 for a break, 64 to 53 for channel 3, equal cost fits, 34 does not cover a break. -/
theorem test_tick :
    engineView (exec .tick (idleAt 256 3 0 quietInputs 0)) = some ⟨.brk, 0, 0x00#8, false, 29, 0⟩ ∧
    engineView (exec .tick (idleAt 256 3 3 quietInputs 0)) = some ⟨.slot, 0, 0x80#8, false, 53, 3⟩ ∧
    engineView (exec .tick (idleAt 140 3 0 quietInputs 0)) = some ⟨.brk, 0, 0x00#8, false, 0, 0⟩ ∧
    engineView (exec .tick (idleAt 136 3 0 quietInputs 0)) = some ⟨.idle, 0, 0x00#8, true, 34, 0⟩ := by decide

/-- V12 and V63: a pulse on a stopped engine, and one in flight. -/
theorem test_tick_ignored :
    engineView (exec .tick fresh) = some ⟨.idle, 0, 0x00#8, true, 0, 0⟩ ∧
    engineView (step (inBreak 3 pulse 0)) = some ⟨.brk, 4, 0x00#8, false, 29, 0⟩ := by decide

/-- V59 and V60: dispatch at the end of a transition, `11 > 7` and `11 ≤ 11`. -/
theorem test_dispatch_at_slot_end :
    engineView (step (inSlot 3 2 0x00#8 10 7 quietInputs 0)) = some ⟨.idle, 0, 0x00#8, true, 7, 3⟩ ∧
    engineView (step (inSlot 1 0 0x00#8 10 11 quietInputs 0)) = some ⟨.slot, 0, 0xFF#8, false, 0, 1⟩ := by decide

/-! ## The order at an edge, and reset -/

/-- V64 and V65: the command first, then the tick on its result. -/
theorem test_command_then_tick :
    engineView (step (freshWith 256 { command 0x00001000F#34 with tick := true } 0)) =
      some ⟨.brk, 0, 0x00#8, false, 29, 0⟩ ∧
    engineView (step (idleAt 256 3 0 { command 0x100000000#34 with tick := true } 0)) =
      some ⟨.idle, 0, 0x00#8, true, 0, 0⟩ := by decide

/-- V66: the fetch sees the same edge's write. -/
theorem test_fetch_sees_same_edge_write :
    engineView (step (idleAt 256 3 1 { command 0x00001000F#34 with tick := true } 0)) =
      some ⟨.slot, 0, 0x0F#8, false, 53, 1⟩ := by decide

/-- V69 and V71: reset in a break, and reset against a command and a tick. -/
theorem test_reset :
    engineView (step (inBreak 7 { quietInputs with rst := true } 0)) = some ⟨.idle, 0, 0x00#8, true, 0, 0⟩ ∧
    hostView (step (idleAt 256 1 0 { command 0x000020001#34 with rst := true, tick := true } 0)) =
      some ⟨0, false, 0, 0x0000#16, []⟩ := by decide

/-! ## How a word is run (log entry 4) -/

/-- The words of every row run as the first operation after reset. -/
theorem test_withFetchWord :
    (hostView (step (State.reset.withFetchWord 40 0x000030080))).map (·.count) = some 3 ∧
    (hostView (step (State.reset.withFetchWord 40 0x100030000))).map (·.count) = some 3 ∧
    (hostView (step (State.reset.withFetchWord 40 0x200050000))).map (·.line) = some 5#16 ∧
    (hostView (step (State.reset.withFetchWord 40 0x300000000))).map (·.count) = some 0 ∧
    (engineView (step (State.reset.withFetchWord 16 0x000))).map (·.phase) = some .brk ∧
    (engineView (step (State.reset.withFetchWord 16 0x001))).map (·.phase) = some .slot ∧
    (engineView (step (State.reset.withFetchWord 16 0x207))).map (·.txbyte) = some 0x81#8 ∧
    (engineView (step (State.reset.withFetchWord 8 0))).map (·.tx) = some false ∧
    (engineView (step (State.reset.withFetchWord 8 1))).map (·.phase) = some .idle := by decide

/-! ## Witnesses: states and operands that meet the hypotheses of a statement, at the boundaries of its clauses -/

theorem inv_fresh : Inv fresh := by constructor <;> decide
theorem inv_idle : Inv (idleAt 256 3 0 pulse 50) := by constructor <;> decide
theorem inv_inBreak : Inv (inBreak 21 quietInputs 50) := by constructor <;> decide
theorem inv_inMark : Inv (inMark 1 quietInputs 50) := by constructor <;> decide
theorem inv_inSlot : Inv (inSlot 512 512 0x80#8 10 64 quietInputs 50) := by constructor <;> decide

theorem witness_WriteStoresClampedAndStarts :
    cmdOp 0x0FFFD0007#34 = 0b00#2 ∧ fresh.channelBuffer.wf = true ∧ fresh.frameCursor ≤ fresh.activeChannelCount ∧
    (idleAt 256 3 3 quietInputs 0).channelBuffer.wf = true ∧
    ((1 : Int) ≤ 1 ∧ (1 : Int) ≤ 512) ∧ ((1 : Int) ≤ 512 ∧ (512 : Int) ≤ 512) ∧
    ¬((1 : Int) ≤ 0 ∧ (0 : Int) ≤ 512) ∧ ¬((1 : Int) ≤ 513 ∧ (513 : Int) ≤ 512) := by decide

theorem witness_SetmaxStopsOrSetsTheCount :
    cmdOp 0x10003ABCD#34 = 0b01#2 ∧ (0 : Int) ≤ 0 ∧ (0 : Int) < 1 ∧
    (idleAt 256 5 3 quietInputs 0).engineRunning = true := by decide

theorem witness_SellineRebindsAndRestarts :
    cmdOp 0x200050000#34 = 0b10#2 ∧ fresh.frameCursor ≤ fresh.activeChannelCount ∧
    (idleAt 256 3 3 quietInputs 0).frameCursor ≤ (idleAt 256 3 3 quietInputs 0).activeChannelCount ∧
    Inv (idleAt 256 3 3 (command 0x200050000#34) 0) ∧
    acceptedCommand (idleAt 256 3 3 (command 0x200050000#34) 0) = some (.selline 5#16) :=
  ⟨by decide, by decide, by decide, by constructor <;> decide, by decide⟩

theorem witness_RsvdChangesNothing :
    cmdOp 0x312345678#34 = 0b11#2 ∧ fresh.frameCursor ≤ fresh.activeChannelCount := by decide

theorem witness_CommandsNormaliseTheCursor :
    isCommand (.setmax 2) = true ∧ isCommand (.selline 5#16) = true ∧
    (∃ t, exec (.setmax 2) (idleAt 256 5 3 quietInputs 0) = .next t ∧ t.frameCursor ≠ 3) ∧
    ∃ t, exec (.selline 5#16) (idleAt 256 5 3 quietInputs 0) = .next t ∧ t.frameCursor ≠ 3 :=
  ⟨rfl, rfl, ⟨_, rfl, by decide⟩, ⟨_, rfl, by decide⟩⟩

theorem witness_CommandsIgnoreEngineRegisters :
    isCommand (.write 1 255) = true ∧ ∃ t, exec (.write 1 255) fresh = .next t := ⟨rfl, _, rfl⟩

theorem witness_WhatWakesAStoppedEngine :
    fresh.engineRunning = false ∧
    (∃ t, exec (.write 0 7) fresh = .next t ∧ t.engineRunning = true) ∧
    (∃ t, exec (.setmax 1) fresh = .next t ∧ t.engineRunning = true) ∧
    (∃ t, exec (.setmax 0) fresh = .next t ∧ t.engineRunning = false) ∧
    (∃ t, exec (.selline 5#16) fresh = .next t ∧ t.engineRunning = false) ∧
    ∃ t, exec .rsvd fresh = .next t ∧ t.engineRunning = false :=
  ⟨rfl, ⟨_, rfl, rfl⟩, ⟨_, rfl, rfl⟩, ⟨_, rfl, rfl⟩, ⟨_, rfl, rfl⟩, ⟨_, rfl, rfl⟩⟩

theorem witness_SendbyteStartsASlot : ∃ t, exec (.sendbyte 0x80#8) fresh = .next t ∧ NoReset 11 t :=
  ⟨_, rfl, by decide⟩

theorem witness_SlotAdvancesThroughItsByte :
    (bitTick (inSlot 3 3 0x80#8 9 7 quietInputs 0) = true ∧
      (inputNow (inSlot 3 3 0x80#8 9 7 quietInputs 0)).rst = false ∧
      (inSlot 3 3 0x80#8 9 7 quietInputs 0).phase = .slot ∧ (inSlot 3 3 0x80#8 9 7 quietInputs 0).cnt < 10) ∧
    (inSlot 3 3 0x80#8 0 7 quietInputs 20).tx = slotLevel 0x80#8 0 ∧
    NoReset 10 (inSlot 3 3 0x80#8 0 7 quietInputs 20) := by decide

theorem witness_CommandsLeaveTheLine :
    (inputNow (idleAt 256 3 3 (command 0x100000000#34) 0)).rst = false ∧
    (inputNow (idleAt 256 3 3 (command 0x100000000#34) 0)).tick = false ∧
    ∃ t, step (idleAt 256 3 3 (command 0x100000000#34) 0) = .next t := ⟨rfl, rfl, _, rfl⟩

theorem witness_BreakIsLowForBreakBits :
    (bitTick (inBreak 20 quietInputs 0) = true ∧ (inBreak 20 quietInputs 0).cnt < 22 - 1) ∧
    (bitTick (inBreak 21 quietInputs 0) = true ∧ ¬(inBreak 21 quietInputs 0).cnt < 22 - 1) ∧
    (inputNow (inBreak 21 quietInputs 0)).rst = false ∧ (inBreak 0 quietInputs 30).cfg.breakBits = 22 ∧
    (inBreak 0 quietInputs 30).tx = false ∧ NoReset 22 (inBreak 0 quietInputs 30) := by decide

theorem witness_MarkIsHighForMabBits :
    (bitTick (inMark 0 quietInputs 0) = true ∧ (inMark 0 quietInputs 0).cnt < 2 - 1) ∧
    (bitTick (inMark 1 quietInputs 0) = true ∧ ¬(inMark 1 quietInputs 0).cnt < 2 - 1) ∧
    (inputNow (inMark 1 quietInputs 0)).rst = false ∧ (inMark 0 quietInputs 5).cfg.mabBits = 2 ∧
    (inMark 0 quietInputs 5).tx = true ∧ NoReset 2 (inMark 0 quietInputs 5) := by decide

theorem witness_ChannelSendsItsSlot :
    ((1 : Nat) ≤ 1 ∧ (1 : Nat) ≤ 512) ∧ ((1 : Nat) ≤ 512 ∧ (512 : Nat) ≤ 512) ∧ NoReset 11 fresh := by decide

theorem witness_ChannelOutsideTheBufferStops : ((0 : Nat) = 0 ∨ 512 < 0) ∧ ((513 : Nat) = 0 ∨ 512 < 513) := by decide

theorem witness_CursorAdvancesAndWraps :
    (bitTick (inSlot 512 511 0x00#8 10 7 quietInputs 0) = true ∧
      (inputNow (inSlot 512 511 0x00#8 10 7 quietInputs 0)).rst = false ∧ ¬(511 + 1 > 512)) ∧
    (bitTick (inSlot 512 512 0x00#8 10 7 quietInputs 0) = true ∧
      (inputNow (inSlot 512 512 0x00#8 10 7 quietInputs 0)).rst = false ∧ 512 + 1 > 512) := by decide

theorem witness_CursorMovesOnlyByOneOrToZero :
    (∃ t, step (inSlot 3 2 0x00#8 10 7 quietInputs 0) = .next t ∧ t.frameCursor = 3) ∧
    (∃ t, step (inSlot 3 3 0x00#8 10 7 quietInputs 0) = .next t ∧ t.frameCursor = 0) ∧
    (∃ t, step (inSlot 3 3 0x00#8 9 7 { quietInputs with rst := true } 0) = .next t ∧ t.frameCursor = 0) ∧
    ∃ t, step (idleAt 256 3 3 (command 0x100020000#34) 0) = .next t ∧ t.frameCursor = 0 :=
  ⟨⟨_, rfl, rfl⟩, ⟨_, rfl, rfl⟩, ⟨_, rfl, rfl⟩, ⟨_, rfl, rfl⟩⟩

theorem witness_TransitionsAreNeverCutShort :
    (∃ t, step (inBreak 21 quietInputs 0) = .next t ∧ t.phase = .mab) ∧
    (∃ t, step (inMark 1 quietInputs 0) = .next t ∧ t.phase = .slot) ∧
    (∃ t, step (inSlot 3 3 0x80#8 9 7 quietInputs 0) = .next t ∧ t.phase = .slot) ∧
    ∃ t, step (inSlot 3 3 0x80#8 10 7 quietInputs 0) = .next t ∧ t.phase = .idle :=
  ⟨⟨_, rfl, rfl⟩, ⟨_, rfl, rfl⟩, ⟨_, rfl, rfl⟩, ⟨_, rfl, rfl⟩⟩

theorem witness_BreakTransitionWaveform :
    1 ≤ (idleAt 256 3 0 quietInputs 40).cfg.breakBits ∧ 1 ≤ (idleAt 256 3 0 quietInputs 40).cfg.mabBits ∧
    ∃ t, exec .brk (idleAt 256 3 0 quietInputs 40) = .next t ∧ NoReset 35 t :=
  ⟨by decide, by decide, _, rfl, by decide⟩

theorem witness_DispatchStartsWhatFits :
    ((inSlot 3 0 0x00#8 10 35 quietInputs 0).frameCursor = 0 ∧ 35 ≤ (inSlot 3 0 0x00#8 10 35 quietInputs 0).budget) ∧
    (1 ≤ (inSlot 512 512 0x00#8 10 11 quietInputs 0).frameCursor ∧
      (inSlot 512 512 0x00#8 10 11 quietInputs 0).frameCursor ≤ 512 ∧
      11 ≤ (inSlot 512 512 0x00#8 10 11 quietInputs 0).budget) ∧
    (inSlot 3 0 0x00#8 10 34 quietInputs 0).budget < 35 ∧ (inSlot 3 1 0x00#8 10 10 quietInputs 0).budget < 11 := by
  decide

theorem witness_TickLoadsBudgetAndDispatches :
    0 < (config 140).budgetDen ∧ budgetBits (config 140) = 35 ∧ budgetBits (config 136) = 34 ∧ budgetBits (config 44) = 11 ∧
    budgetBits (config 40) = 10 ∧ fresh.engineRunning = false ∧ (inBreak 3 quietInputs 0).phase ≠ .idle ∧
    (idleAt 140 3 0 quietInputs 0).phase = .idle ∧ (idleAt 44 3 3 quietInputs 0).engineRunning = true ∧
    34 < cost 0 ∧ 10 < cost 3 := by decide

theorem witness_TransitionsOfATickAreBackToBack :
    (∃ t, step (inSlot 3 0 0x00#8 10 11 quietInputs 0) = .next t ∧ cost t.frameCursor ≤ 11) ∧
    ∃ t, step (idleAt 140 3 0 pulse 0) = .next t ∧ t.engineRunning = true ∧ cost t.frameCursor ≤ budgetBits (config 140) :=
  ⟨⟨_, rfl, by decide⟩, ⟨_, rfl, by decide⟩⟩

theorem witness_TickProgressNeedsTheBreakCost :
    35 ≤ budgetBits (idleAt 140 3 3 quietInputs 0).cfg ∧ budgetBits (idleAt 136 3 0 pulse 0).cfg < 35 ∧
    (idleAt 136 3 0 pulse 0).tx = true ∧ ∃ t, runEdges 1 (idleAt 136 3 0 pulse 0) = .next t :=
  ⟨by decide, by decide, rfl, _, rfl⟩

theorem witness_TickReturnsWithinItsBudget :
    Inv (idleAt 140 3 0 pulse 40) ∧ busyBound (config 140) (budgetBits (config 140)) = 35 ∧
    NoReset (35 + 1) (idleAt 140 3 0 pulse 40) :=
  ⟨by constructor <;> decide, by decide, by decide⟩

theorem witness_NoPeriodicTickFindsOneInFlight :
    Inv (idleAt 140 3 0 pulse 139) ∧ NumericallyValid (idleAt 140 3 0 pulse 139).cfg ∧
    (inputNow (idleAt 140 3 0 pulse 139)).tick = true ∧ PeriodicTick 0 140 (idleAt 140 3 0 pulse 139) ∧
    NoReset 140 (idleAt 140 3 0 pulse 139) :=
  ⟨by constructor <;> decide, by decide, rfl, by decide, by decide⟩

theorem witness_IdleStepRunsCommandThenTick :
    (bitTick fresh = true ∧ (inputNow fresh).rst = false ∧ fresh.phase = .idle ∧
      (inputNow fresh).cmdValid = false ∧ (inputNow fresh).tick = false) ∧
    (inputNow (idleAt 256 3 0 pulse 0)).tick = true ∧
    (inputNow (freshWith 256 (command 0x000030080#34) 0)).cmdValid = true ∧
    decode (.command 0x000030080#34) = .ok (.write 3 128) := by decide

theorem witness_BusyStepRunsSelectedOperation :
    (bitTick (inBreak 21 quietInputs 0) = true ∧ (inBreak 21 quietInputs 0).cnt = 22 - 1) ∧
    (inMark 1 quietInputs 0).cnt = 2 - 1 ∧ (inSlot 3 3 0x80#8 9 7 quietInputs 0).cnt < 10 ∧
    (inSlot 3 2 0x80#8 10 11 quietInputs 0).cnt = 10 ∧ (inputNow (inSlot 3 2 0x80#8 10 11 quietInputs 0)).rst = false ∧
    cost (2 + 1) ≤ (inSlot 3 2 0x80#8 10 11 quietInputs 0).budget ∧
    cost 0 ≤ (inSlot 3 3 0x80#8 10 35 quietInputs 0).budget := by decide

theorem witness_InFlightStepIgnoresHostAndTick :
    bitTick (inBreak 3 quietInputs 0) = true ∧ (inBreak 3 quietInputs 0).phase ≠ .idle ∧
    (command 0x100000000#34).rst = pulse.rst := by decide

/-- V66. -/
theorem witness_FetchSeesTheSameEdgeWrite :
    bitTick (idleAt 256 3 1 { command 0x00001000F#34 with tick := true } 0) = true ∧
    (inputNow (idleAt 256 3 1 { command 0x00001000F#34 with tick := true } 0)).cmdValid = true ∧
    decodeCommand 0x00001000F#34 = .write 1 15 ∧
    (idleAt 256 3 1 { command 0x00001000F#34 with tick := true } 0).channelBuffer.wf = true ∧
    ((1 : Nat) : Int) = 1 ∧ 11 ≤ budgetBits (config 256) := by decide

theorem witness_ClockCyclesRefineOneEdge :
    (0 < 3 ∧ 1 < 3 - 0) ∧ ({ fresh with cfg := { config 256 with clksPerBit := 3 } } : State).baudCnt < 3 := by decide

theorem witness_ResetBeatsEverything :
    bitTick (inBreak 7 { quietInputs with rst := true } 0) = true ∧
    (inputNow (inBreak 7 { quietInputs with rst := true } 0)).rst = true := by decide

theorem witness_ResetKeepsParametersAndTime :
    bitTick (inBreak 7 { quietInputs with rst := true } 0) = true ∧
    ∃ t, step (inBreak 7 { quietInputs with rst := true } 0) = .next t := ⟨by decide, _, rfl⟩

theorem witness_WithoutTicksNothingIsSent :
    (idleAt 256 3 3 (command 0x00001000F#34) 30).phase = .idle ∧
    (idleAt 256 3 3 (command 0x00001000F#34) 30).tx = true ∧ NoReset 30 (idleAt 256 3 3 (command 0x00001000F#34) 30) ∧
    ∀ j < 30, (inputAt (idleAt 256 3 3 (command 0x00001000F#34) 30) j).tick = false := by decide

theorem witness_StoppedBlockStaysSilent :
    fresh.engineRunning = false ∧ fresh.phase = .idle ∧ fresh.tx = true ∧ NoReset 30 fresh ∧ NoCommand 30 fresh := by
  decide

theorem witness_StepKeepsInvariants :
    1 ≤ (idleAt 256 3 0 pulse 50).cfg.breakBits ∧ 1 ≤ (idleAt 256 3 0 pulse 50).cfg.mabBits ∧
    Inv (idleAt 256 3 0 pulse 50) ∧ ∃ t, step (idleAt 256 3 0 pulse 50) = .next t := ⟨by decide, by decide, inv_idle, _, rfl⟩

theorem witness_StepNeverStops : Inv (inSlot 512 512 0x80#8 10 64 quietInputs 50) := inv_inSlot

theorem witness_EngineNeverWritesHostState :
    (inputNow (inSlot 3 3 0x80#8 10 64 quietInputs 0)).rst = false ∧
    acceptedCommand (inSlot 3 3 0x80#8 10 64 quietInputs 0) = none ∧
    ∃ t, step (inSlot 3 3 0x80#8 10 64 quietInputs 0) = .next t := ⟨rfl, by decide, _, rfl⟩

theorem witness_SlotChangesOnlyByItsWrite :
    (idleAt 256 3 0 (command 0x00001000F#34) 0).channelBuffer.wf = true ∧
    (∃ t, step (idleAt 256 3 0 (command 0x00001000F#34) 0) = .next t ∧ bufferRead t.channelBuffer 0 = 15#8) ∧
    (∃ t, step (idleAt 256 3 0 { quietInputs with rst := true } 0) = .next t ∧ bufferRead t.channelBuffer 0 = 0#8) ∧
    bufferRead (idleAt 256 3 0 quietInputs 0).channelBuffer 0 = 255#8 :=
  ⟨by decide, ⟨_, rfl, by decide⟩, ⟨_, rfl, by decide⟩, by decide⟩

theorem witness_WhoWritesCountFlagAndBinding :
    (∃ t, step (freshWith 256 (command 0x000030080#34) 0) = .next t ∧ t.activeChannelCount ≠ 0) ∧
    (∃ t, step (freshWith 256 (command 0x100030000#34) 0) = .next t ∧ t.engineRunning ≠ false) ∧
    ∃ t, step (freshWith 256 (command 0x200050000#34) 0) = .next t ∧ t.outputBinding ≠ 0x0000#16 :=
  ⟨⟨_, rfl, by decide⟩, ⟨_, rfl, by decide⟩, ⟨_, rfl, by decide⟩⟩

theorem witness_RegistersFitTheirWidths : Inv (inBreak 21 quietInputs 50) ∧ Inv (inSlot 512 512 0x80#8 10 64 quietInputs 50) :=
  ⟨inv_inBreak, inv_inSlot⟩

theorem witness_FrameOnTheWire :
    Inv (idleAt 272 3 0 pulse 80) ∧ (inputNow (idleAt 272 3 0 pulse 80)).tick = true ∧
    (inputNow (idleAt 272 3 0 pulse 80)).cmdValid = false ∧ 35 + 11 * 3 ≤ budgetBits (config 272) ∧
    breakDur (config 272) = 35 ∧ NoReset (1 + (35 + 11 * 3)) (idleAt 272 3 0 pulse 80) :=
  ⟨by constructor <;> decide, rfl, rfl, by decide, by decide, by decide⟩

theorem witness_ChunkingIsTransparent :
    Inv (idleAt 256 3 0 pulse 60) ∧ (idleAt 256 3 0 pulse 60).phase = .idle ∧ NoReset 60 (idleAt 256 3 0 pulse 60) ∧
    NoCommand 60 (idleAt 256 3 0 pulse 60) :=
  ⟨by constructor <;> decide, rfl, by decide, by decide⟩

theorem witness_DecodeOfEncodeIsTheOperation :
    (Instr.write (-32768) 32767).wellFormed = true ∧ (Instr.setmax 32767).wellFormed = true ∧
    (Instr.channel 1).wellFormed = true ∧ (Instr.channel 512).wellFormed = true := by decide

theorem witness_EncodeOfDecodeIsTheWord :
    decode (.command 0x10003ABCD#34) = .ok (.setmax 3) ∧ decode (.slot 0b01000000011#11) = .ok (.sendbyte 0x01#8) := by
  decide

end Sys2Proof.Tests
end

section
/-! PROOFS of the statements of spec/00_scope.md: the divider from `clk` cycles to bit periods (R13), and the widths of
the registers (R9). -/

namespace Sys2Proof
namespace Machine

/-! ## The divider (R13) -/

/-- Before the last `clk` cycle of a bit period a step only counts. -/
theorem step_eq_countClk {s : State} (h : s.baudCnt + 1 < s.cfg.clksPerBit) : step s = .next (countClk s) := by
  simp [step, clkCycle, bitTick, h]

theorem runSteps_succ (k : Nat) (s : State) : runSteps (k + 1) s = andThen (step s) (runSteps k) := rfl

theorem runSteps_one (s : State) : runSteps 1 s = step s := by
  rw [runSteps_succ]
  cases step s <;> rfl

/-- The first `j` cycles of a run that do not reach the end of the bit period only advance the divider by `j`. -/
theorem runSteps_add_of_inside_period (m : Nat) {j : Nat} {s : State} (h : s.baudCnt + j < s.cfg.clksPerBit) :
    runSteps (j + m) s = runSteps m { s with baudCnt := s.baudCnt + j } := by
  induction j generalizing s with
  | zero => rw [Nat.zero_add]; rfl
  | succ j ih =>
    have hcount : (countClk s).baudCnt + j < (countClk s).cfg.clksPerBit := by
      simp only [countClk_baudCnt, countClk_cfg]
      omega
    have hdivider : s.baudCnt + 1 + j = s.baudCnt + (j + 1) := by omega
    rw [Nat.succ_add, runSteps_succ, step_eq_countClk (by omega), andThen_next, ih hcount, countClk_baudCnt, hdivider]
    rfl

/-- The edge that ends a bit period does not depend on where the divider stands. -/
theorem edge_baudCnt (n : Nat) (s : State) : edge { s with baudCnt := n } = edge s := rfl

/-! ## The widths of the registers (R9) -/

/-- `BUDGET_W` bits hold every value up to `BUDGET_BITS`. -/
theorem lt_two_pow_budgetWidth {c : Config} {n : Nat} (h : n ≤ budgetBits c) : n < 2 ^ budgetWidth c :=
  calc
    n < budgetBits c + 1 := by omega
    _ ≤ 2 ^ Nat.clog 2 (budgetBits c + 1) := Nat.le_pow_clog Nat.one_lt_two _
    _ ≤ 2 ^ budgetWidth c := Nat.pow_le_pow_right Nat.two_pos (le_max_right _ _)

/-- `CNT_W` bits index every bit period of the longest phase. -/
theorem lt_two_pow_cntWidth {c : Config} {n : Nat} (h : n < max c.breakBits (max c.mabBits Config.slotBits)) :
    n < 2 ^ cntWidth c :=
  h.trans_le (Nat.le_pow_clog Nat.one_lt_two _)

/-- Under the invariants `cnt` is below the length of the longest phase. -/
theorem Inv.cnt_lt_longest_phase {s : State} (h : Inv s) :
    s.cnt < max s.cfg.breakBits (max s.cfg.mabBits Config.slotBits) := by
  have hslot : Config.slotBits = 11 := rfl
  cases hp : s.phase with
  | idle =>
    have hcnt := (h.idleLine hp).2
    omega
  | brk =>
    obtain ⟨-, -, hcnt⟩ := h.inBreak hp
    omega
  | mab =>
    obtain ⟨-, -, hcnt⟩ := h.inMark hp
    omega
  | slot =>
    have hcnt := (h.inSlot hp).1
    omega

/-! ## The obligations -/

/-- Settles O32: the cycles before the last of the period only advance the divider, and the last is the edge, which does
not look at the divider. -/
theorem clockCyclesRefineOneEdge : Obligations.ClockCyclesRefineOneEdge := by
  intro s hs
  refine ⟨fun j hj => runSteps_add_of_inside_period 0 (by omega), ?_⟩
  have hsplit : s.cfg.clksPerBit - s.baudCnt = (s.cfg.clksPerBit - s.baudCnt - 1) + 1 := by omega
  have hend : bitTick { s with baudCnt := s.baudCnt + (s.cfg.clksPerBit - s.baudCnt - 1) } = true := by
    simp only [bitTick, Bool.not_eq_true', decide_eq_false_iff_not]
    omega
  rw [hsplit, runSteps_add_of_inside_period 1 (by omega), runSteps_one, step_eq_edge hend, edge_baudCnt]

/-- Settles O42: the invariants bound the count and the cursor by 512, the budget by `BUDGET_BITS` and `cnt` by the
longest phase. -/
theorem registersFitTheirWidths : Obligations.RegistersFitTheirWidths := by
  intro s h
  have hcount := h.countLe
  have hcursor := h.cursorLeCount
  have hwidth : 2 ^ Config.cursorWidth = 1024 := rfl
  exact ⟨by omega, by omega, lt_two_pow_budgetWidth h.budgetLe, lt_two_pow_cntWidth h.cnt_lt_longest_phase⟩

end Machine
end Sys2Proof
end

section
/-! PROOFS of the statements of spec/10_state.md: the invariants (R36), who writes which register (R24 to R27, R35), and
the state after reset (R34). -/

namespace Sys2Proof
namespace Machine

/-! ## What an edge leaves alone -/

/-- `Dispatch()` writes nothing of the host's and nothing outside the block. -/
theorem dispatch_frame {s t : State} (h : dispatch s = .next t) : SameHost s t ∧ SameWorld s t := by
  obtain ⟨-, -, rfl⟩ | ⟨-, -, -, rfl⟩ | ⟨-, rfl⟩ := dispatch_cases h
  all_goals simp [SameHost, SameWorld]

/-- All that the pulse of an edge can do: nothing, or load the budget of a running idle engine and dispatch. -/
theorem pulseEdge_next {i : Inputs} {s t : State} (h : pulseEdge i s = .next t) :
    t = s ∨ (s.phase = .idle ∧ s.engineRunning = true ∧
      dispatch { s with budget := budgetBits s.cfg } = .next t) := by
  by_cases ht : i.tick = true
  · rw [pulseEdge, if_pos ht] at h
    have hexec : execTick s = .next t := h
    by_cases ha : s.phase = .idle ∧ s.engineRunning = true
    · rw [execTick_accepted ha.1 ha.2] at hexec
      exact .inr ⟨ha.1, ha.2, hexec⟩
    · rw [execTick_ignored (by simpa [Classical.or_iff_not_imp_left] using ha)] at hexec
      exact .inl (Host.Outcome.next.inj hexec).symm
  · exact .inl (by simpa [pulseEdge, ht] using h.symm)

theorem pulseEdge_frame {i : Inputs} {s t : State} (h : pulseEdge i s = .next t) : SameHost s t ∧ SameWorld s t := by
  obtain rfl | ⟨-, -, hd⟩ := pulseEdge_next h
  · simp [SameHost, SameWorld]
  · exact (dispatch_frame hd :)

/-- A presented command touches neither the engine's registers nor the outside world. -/
theorem commandEdge_frame {i : Inputs} {s u : State} (h : commandEdge i s = .next u) :
    SameEngine s u ∧ SameWorld s u := by
  obtain ⟨-, rfl⟩ | ⟨-, hexec⟩ := commandEdge_next h
  · simp [SameEngine, SameWorld]
  · obtain ⟨v, hv, hframe⟩ := exec_command (decodeCommand_isCommand i.cmdWord) s
    rw [hexec] at hv
    exact Host.Outcome.next.inj hv ▸ hframe

/-- An edge inside a transition writes nothing of the host's and nothing outside the block. -/
theorem edgeOn_busy_frame {i : Inputs} {s t : State} (hr : i.rst = false) (hp : s.phase ≠ .idle)
    (h : edgeOn i s = .next t) : SameHost s t ∧ SameWorld s t := by
  obtain ⟨hr', -⟩ | ⟨-, hp', -⟩ | ⟨-, -, rfl⟩ | ⟨-, -, rfl⟩ | ⟨-, -, -, rfl⟩ | ⟨-, -, -, hd⟩ := edgeOn_cases h
  · simp [hr] at hr'
  · exact absurd hp' hp
  · split <;> simp [SameHost, SameWorld]
  · split <;> simp [SameHost, SameWorld]
  · simp [SameHost, SameWorld]
  · exact (dispatch_frame hd :)

/-- No edge writes the parameters. -/
theorem edgeOn_cfg {i : Inputs} {s t : State} (h : edgeOn i s = .next t) : t.cfg = s.cfg := by
  by_cases hr : i.rst = true
  · rw [edgeOn_rst hr] at h
    exact Host.Outcome.next.inj h ▸ resetRegisters_cfg s
  · have hr : i.rst = false := by simpa using hr
    by_cases hp : s.phase = .idle
    · rw [edgeOn_idle hr hp] at h
      obtain ⟨u, hu, ht⟩ := andThen_eq_next.mp h
      exact (pulseEdge_frame ht).2.1.trans (commandEdge_frame hu).2.1
    · exact (edgeOn_busy_frame hr hp h).2.1

/-- No step writes the parameters. -/
theorem step_cfg {s t : State} (h : step s = .next t) : t.cfg = s.cfg := by
  obtain ⟨-, rfl⟩ | ⟨-, he⟩ := step_cases h
  · rfl
  · exact edgeOn_cfg (s := nextPeriod s) he

/-! ## Who writes the host's state (R24 to R27, R35) -/

/-- The last `clk` cycle of a bit period. -/
theorem bitTick_of_le {s : State} (h : s.cfg.clksPerBit ≤ s.baudCnt + 1) : bitTick s = true := by
  simpa [bitTick] using h

/-- A command presented in an idle period without reset is accepted. -/
theorem acceptedCommand_of_valid {s : State} (hr : (inputNow s).rst = false) (hp : s.phase = .idle)
    (hv : (inputNow s).cmdValid = true) : acceptedCommand s = some (decodeCommand (inputNow s).cmdWord) := by
  simp [acceptedCommand, presentedCommand, cmdReady, hr, hp, hv]

/-- Without reset a step leaves the host's state alone, or it ends a bit period and executes an accepted command, after
which the host's state stays as the command left it. -/
theorem step_sameHost_or_command {s t : State} (hr : (inputNow s).rst = false) (h : step s = .next t) :
    SameHost s t ∨ (bitTick s = true ∧ ∃ i u, acceptedCommand s = some i ∧ isCommand i = true ∧
      exec i (nextPeriod s) = .next u ∧ SameHost u t) := by
  obtain ⟨-, rfl⟩ | ⟨hb, he⟩ := step_cases h
  · exact .inl ⟨rfl, rfl, rfl, rfl⟩
  by_cases hp : s.phase = .idle
  · rw [edge, edgeOn_idle hr (s := nextPeriod s) hp] at he
    obtain ⟨u, hu, ht⟩ := andThen_eq_next.mp he
    have hhost : SameHost u t := (pulseEdge_frame ht).1
    obtain ⟨-, rfl⟩ | ⟨hv, hexec⟩ := commandEdge_next hu
    · exact .inl hhost
    · exact .inr ⟨bitTick_of_le hb, _, u, acceptedCommand_of_valid hr hp hv, decodeCommand_isCommand _, hexec, hhost⟩
  · exact .inl (edgeOn_busy_frame (s := nextPeriod s) hr hp he).1

/-- All that a command can do, each of the four by its rule: WRITE in range and out of range (R157), SETMAX at most 0
and above (R159), SELLINE (R160), RSVD (R161). -/
theorem exec_command_cases {i : Instr} {s t : State} (hi : isCommand i = true) (h : exec i s = .next t) :
    (∃ c v, i = .write c v ∧ (1 ≤ c ∧ c ≤ 512) ∧ t = normalise { ensureRunning s with
      channelBuffer := bufferWrite s.channelBuffer (channelIndex c) (clamp8 v)
      activeChannelCount := max s.activeChannelCount c.toNat }) ∨
    (∃ c v, i = .write c v ∧ t = normalise (ensureRunning s)) ∨
    (∃ c, i = .setmax c ∧ t = normalise (setCount 0 (engineStop s))) ∨
    (∃ c, i = .setmax c ∧ t = normalise (ensureRunning (setCount (saturateCount c) s))) ∨
    (∃ line, i = .selline line ∧ t = normalise { s with
      outputBinding := line, frameCursor := if s.engineRunning then 0 else s.frameCursor }) ∨
    (i = .rsvd ∧ t = normalise s) := by
  have answer {u : State} (hu : exec i s = .next u) : t = u := Host.Outcome.next.inj (h.symm.trans hu)
  cases i
  case write c v =>
    by_cases hc : 1 ≤ c ∧ c ≤ 512
    · exact .inl ⟨c, v, rfl, hc, answer (execWrite_inRange hc v s)⟩
    · exact .inr (.inl ⟨c, v, rfl, answer (execWrite_outOfRange hc v s)⟩)
  case setmax c =>
    by_cases hc : c ≤ 0
    · exact .inr (.inr (.inl ⟨c, rfl, answer (execSetmax_stop hc s)⟩))
    · exact .inr (.inr (.inr (.inl ⟨c, rfl, answer (execSetmax_set hc s)⟩)))
  case selline line => exact .inr (.inr (.inr (.inr (.inl ⟨line, rfl, answer (execSelline_eq line s)⟩))))
  case rsvd => exact .inr (.inr (.inr (.inr (.inr ⟨rfl, answer (execRsvd_eq s)⟩))))
  all_goals exact absurd hi (by simp [isCommand])

/-- The slot of a channel number in range is the channel's own: its index is one less. -/
theorem eq_add_one_of_eq_channelIndex {a : Nat} {channel : Int} (h : 1 ≤ channel) (ha : a = channelIndex channel) :
    channel = (a : Int) + 1 := by
  rw [ha, channelIndex]
  omega

/-- A command changes what index `a` reads only if it is a WRITE to channel `a + 1` (R51). -/
theorem exec_command_slot {i : Instr} {s t : State} {a : Nat} (hi : isCommand i = true)
    (hwf : s.channelBuffer.wf = true) (h : exec i s = .next t) (hne : memRead t a ≠ memRead s a) :
    ∃ value, i = .write ((a : Int) + 1) value := by
  have hbuffer : t.channelBuffer ≠ s.channelBuffer := fun heq => hne (memRead_congr heq a)
  obtain ⟨c, v, rfl, hc, rfl⟩ | ⟨c, v, -, rfl⟩ | ⟨c, -, rfl⟩ | ⟨c, -, rfl⟩ | ⟨line, -, rfl⟩ | ⟨-, rfl⟩ :=
    exec_command_cases hi h
  · have ha : a = channelIndex c := by
      by_contra hac
      exact hne (by simp [memRead_eq, bufferRead_bufferWrite hwf, hac])
    exact ⟨v, by rw [eq_add_one_of_eq_channelIndex hc.1 ha]⟩
  all_goals simp at hbuffer

/-- Of the commands only WRITE and SETMAX write the count or the running flag (R25, R26). -/
theorem exec_command_count_running {i : Instr} {s t : State} (hi : isCommand i = true) (h : exec i s = .next t) :
    (∃ channel value, i = .write channel value) ∨ (∃ channel, i = .setmax channel) ∨
      (t.activeChannelCount = s.activeChannelCount ∧ t.engineRunning = s.engineRunning) := by
  obtain ⟨c, v, hi, -⟩ | ⟨c, v, hi, -⟩ | ⟨c, hi, -⟩ | ⟨c, hi, -⟩ | ⟨line, -, rfl⟩ | ⟨-, rfl⟩ :=
    exec_command_cases hi h
  · exact .inl ⟨c, v, hi⟩
  · exact .inl ⟨c, v, hi⟩
  · exact .inr (.inl ⟨c, hi⟩)
  · exact .inr (.inl ⟨c, hi⟩)
  · exact .inr (.inr ⟨rfl, rfl⟩)
  · exact .inr (.inr ⟨rfl, rfl⟩)

/-- SELLINE writes the binding it names, and no other command writes the binding (R27). -/
theorem exec_command_binding {i : Instr} {s t : State} (hi : isCommand i = true) (h : exec i s = .next t) :
    i = .selline t.outputBinding ∨ t.outputBinding = s.outputBinding := by
  obtain ⟨c, v, -, -, rfl⟩ | ⟨c, v, -, rfl⟩ | ⟨c, -, rfl⟩ | ⟨c, -, rfl⟩ | ⟨line, rfl, rfl⟩ | ⟨-, rfl⟩ :=
    exec_command_cases hi h
  case inr.inr.inr.inr.inl => exact .inl rfl
  all_goals exact .inr (by simp)

/-! ## The invariants, phase by phase (R36) -/

/-- The part of `Inv` that does not speak of the phase: items 1, 4 and 6 of R36, the canonical form of the buffer and
the range of the divider. -/
structure PhaselessInv (s : State) : Prop where
  cursorLeCount : s.frameCursor ≤ s.activeChannelCount
  countLe : s.activeChannelCount ≤ 512
  stoppedEmpty : s.engineRunning = false → s.activeChannelCount = 0 ∧ s.frameCursor = 0
  budgetLe : s.budget ≤ budgetBits s.cfg
  bufferWf : s.channelBuffer.wf = true
  baudLt : s.baudCnt < max 1 s.cfg.clksPerBit

theorem Inv.phaseless {s : State} (h : Inv s) : PhaselessInv s := { h with }

/-- `Inv` in an idle period. -/
theorem inv_of_idle {s : State} (hp : s.phase = .idle) (h : PhaselessInv s) (htx : s.tx = true) (hcnt : s.cnt = 0) :
    Inv s :=
  { h with
    idleLine := fun _ => ⟨htx, hcnt⟩
    busyRuns := fun hn => absurd hp hn
    startCodeSlot := by simp [hp]
    inBreak := by simp [hp]
    inMark := by simp [hp]
    inSlot := by simp [hp] }

/-- `Inv` in a period of the break. -/
theorem inv_of_brk {s : State} (hp : s.phase = .brk) (h : PhaselessInv s) (hrun : s.engineRunning = true)
    (hbrk : s.tx = false ∧ s.frameCursor = 0 ∧ s.cnt < s.cfg.breakBits) : Inv s :=
  { h with
    idleLine := by simp [hp]
    busyRuns := fun _ => hrun
    startCodeSlot := by simp [hp]
    inBreak := fun _ => hbrk
    inMark := by simp [hp]
    inSlot := by simp [hp] }

/-- `Inv` in a period of the mark after break. -/
theorem inv_of_mab {s : State} (hp : s.phase = .mab) (h : PhaselessInv s) (hrun : s.engineRunning = true)
    (hmab : s.tx = true ∧ s.frameCursor = 0 ∧ s.cnt < s.cfg.mabBits) : Inv s :=
  { h with
    idleLine := by simp [hp]
    busyRuns := fun _ => hrun
    startCodeSlot := by simp [hp]
    inBreak := by simp [hp]
    inMark := fun _ => hmab
    inSlot := by simp [hp] }

/-- `Inv` in a period of a slot. -/
theorem inv_of_slot {s : State} (hp : s.phase = .slot) (h : PhaselessInv s) (hrun : s.engineRunning = true)
    (hcode : s.frameCursor = 0 → s.txbyte = 0x00#8) (hslot : s.cnt ≤ 10 ∧ s.tx = slotLevel s.txbyte s.cnt) : Inv s :=
  { h with
    idleLine := by simp [hp]
    busyRuns := fun _ => hrun
    startCodeSlot := fun _ => hcode
    inBreak := by simp [hp]
    inMark := by simp [hp]
    inSlot := fun _ => hslot }

/-! ## The invariants, operation by operation (R36) -/

/-- The reset values meet the invariants, whatever the state was. -/
theorem inv_resetRegisters (s : State) : Inv (resetRegisters s) :=
  inv_of_idle rfl ⟨le_rfl, Nat.zero_le _, fun _ => ⟨rfl, rfl⟩, Nat.zero_le _, rfl, by simp⟩ rfl rfl

theorem Inv.nextPeriod {s : State} (h : Inv s) : Inv (nextPeriod s) := { h with baudLt := by simp }

theorem Inv.countClk {s : State} (h : Inv s) (hb : s.baudCnt + 1 < s.cfg.clksPerBit) : Inv (countClk s) :=
  { h with baudLt := lt_max_of_lt_right hb }

/-- The saturated count of SETMAX is inside the buffer (R165). -/
theorem saturateCount_le (channel : Int) : saturateCount channel ≤ 512 := by
  unfold saturateCount
  omega

/-- `Normalise()` restores the order of cursor and count (R122), so an operation that ends in it owes only the range of
the count, the empty frame of a stopped engine and the canonical form of the buffer. -/
theorem PhaselessInv.normalise {s u : State} (h : PhaselessInv s) (hworld : u.budget = s.budget ∧ SameWorld s u)
    (hcount : u.activeChannelCount ≤ 512) (hstop : u.engineRunning = false → u.activeChannelCount = 0)
    (hwf : u.channelBuffer.wf = true) : PhaselessInv (normalise u) := by
  obtain ⟨hbudget, hcfg, hbaud, -, -⟩ := hworld
  have hcursor := normalise_cursor_le u
  exact { cursorLeCount := hcursor
          countLe := hcount
          stoppedEmpty := fun hs => ⟨hstop hs, Nat.le_zero.mp (hcursor.trans_eq (hstop hs))⟩
          budgetLe := by simpa [hbudget, hcfg] using h.budgetLe
          bufferWf := hwf
          baudLt := by simpa [hbaud, hcfg] using h.baudLt }

/-- A command keeps the invariants that do not speak of the phase. -/
theorem PhaselessInv.exec_command {i : Instr} {s t : State} (h : PhaselessInv s) (hi : isCommand i = true)
    (he : exec i s = .next t) : PhaselessInv t := by
  obtain ⟨c, v, -, hc, rfl⟩ | ⟨c, v, -, rfl⟩ | ⟨c, -, rfl⟩ | ⟨c, -, rfl⟩ | ⟨line, -, rfl⟩ | ⟨-, rfl⟩ :=
    exec_command_cases hi he
  · have hindex : channelIndex c < 512 := by unfold channelIndex; omega
    exact h.normalise (by simp [SameWorld]) (max_le h.countLe (by omega)) (by simp)
      (bufferWfFrom_bufferWrite h.bufferWf (Nat.zero_le _) hindex _)
  · exact h.normalise (by simp [SameWorld]) (by simpa using h.countLe) (by simp) (by simpa using h.bufferWf)
  · exact h.normalise (by simp [SameWorld]) (Nat.zero_le _) (fun _ => rfl) h.bufferWf
  · exact h.normalise (by simp [SameWorld]) (by simpa using saturateCount_le c) (by simp) (by simpa using h.bufferWf)
  · exact h.normalise (by simp [SameWorld]) h.countLe (fun hs => (h.stoppedEmpty hs).1) h.bufferWf
  · rwa [normalise_of_le h.cursorLeCount]

/-- The command of an idle edge keeps the invariants. -/
theorem Inv.commandEdge {i : Inputs} {s u : State} (h : Inv s) (hp : s.phase = .idle)
    (hu : commandEdge i s = .next u) : Inv u := by
  obtain ⟨⟨-, hphase, hcnt, -, htx⟩, -⟩ := commandEdge_frame hu
  obtain ⟨htx0, hcnt0⟩ := h.idleLine hp
  obtain ⟨-, rfl⟩ | ⟨-, hexec⟩ := commandEdge_next hu
  · exact h
  · exact inv_of_idle (hphase.trans hp) (h.phaseless.exec_command (decodeCommand_isCommand _) hexec)
      (htx.trans htx0) (hcnt.trans hcnt0)

/-- `Dispatch()` between two transitions of a running engine, where the line is high: whether it starts a transition or
returns, the state it leaves meets the invariants. -/
theorem PhaselessInv.inv_of_dispatch {s t : State} (h : PhaselessInv s) (hbreak : 1 ≤ s.cfg.breakBits)
    (hrun : s.engineRunning = true) (htx : s.tx = true) (hd : dispatch s = .next t) : Inv t := by
  have hcharged (n : Nat) : s.budget - n ≤ budgetBits s.cfg := (Nat.sub_le _ _).trans h.budgetLe
  obtain ⟨h0, -, rfl⟩ | ⟨h1, -, -, rfl⟩ | ⟨-, rfl⟩ := dispatch_cases hd
  · exact inv_of_brk rfl { h with budgetLe := hcharged _ } hrun ⟨rfl, h0, hbreak⟩
  · exact inv_of_slot rfl { h with budgetLe := hcharged _ } hrun (fun h0 => absurd h0 (Nat.ne_of_gt h1))
      ⟨Nat.zero_le _, rfl⟩
  · exact inv_of_idle rfl { h with } htx rfl

/-- The pulse of an idle edge keeps the invariants. -/
theorem Inv.pulseEdge {i : Inputs} {s t : State} (h : Inv s) (hbreak : 1 ≤ s.cfg.breakBits)
    (ht : pulseEdge i s = .next t) : Inv t := by
  obtain rfl | ⟨hp, hrun, hd⟩ := pulseEdge_next ht
  · exact h
  · have hloaded : PhaselessInv { s with budget := budgetBits s.cfg } := { h with budgetLe := le_rfl }
    exact hloaded.inv_of_dispatch hbreak hrun (h.idleLine hp).1 hd

/-- An edge inside the break keeps the invariants. -/
theorem Inv.breakEdge {s : State} (h : Inv s) (hmab : 1 ≤ s.cfg.mabBits) (hp : s.phase = .brk) :
    Inv (if s.cnt + 1 < s.cfg.breakBits then { s with cnt := s.cnt + 1 }
      else { s with phase := .mab, cnt := 0, tx := true }) := by
  have hrun := h.busyRuns (by simp [hp])
  obtain ⟨htx, hcursor, -⟩ := h.inBreak hp
  split
  · next hlt => exact inv_of_brk hp { h with } hrun ⟨htx, hcursor, hlt⟩
  · exact inv_of_mab rfl { h with } hrun ⟨rfl, hcursor, hmab⟩

/-- An edge inside the mark after break keeps the invariants. -/
theorem Inv.markEdge {s : State} (h : Inv s) (hp : s.phase = .mab) :
    Inv (if s.cnt + 1 < s.cfg.mabBits then { s with cnt := s.cnt + 1 }
      else { s with phase := .slot, cnt := 0, txbyte := 0x00#8, tx := false }) := by
  have hrun := h.busyRuns (by simp [hp])
  obtain ⟨htx, hcursor, -⟩ := h.inMark hp
  split
  · next hlt => exact inv_of_mab hp { h with } hrun ⟨htx, hcursor, hlt⟩
  · exact inv_of_slot rfl { h with } hrun (fun _ => rfl) ⟨Nat.zero_le _, rfl⟩

/-- A slot advance keeps the invariants. -/
theorem Inv.slotAdvance {s : State} (h : Inv s) (hp : s.phase = .slot) (hlt : s.cnt < 10) :
    Inv { s with cnt := s.cnt + 1, tx := slotLevel s.txbyte (s.cnt + 1) } :=
  inv_of_slot hp { h with } (h.busyRuns (by simp [hp])) (h.startCodeSlot hp) ⟨hlt, rfl⟩

/-- The cursor advance stays inside the frame (R121). -/
theorem nextCursor_le (count cursor : Nat) : nextCursor count cursor ≤ count := by
  unfold nextCursor
  split <;> omega

/-- The edge that ends a transition, where the line shows the second stop bit, keeps the invariants. -/
theorem Inv.slotEnd {s t : State} (h : Inv s) (hbreak : 1 ≤ s.cfg.breakBits) (hp : s.phase = .slot)
    (hge : 10 ≤ s.cnt)
    (hd : dispatch { s with frameCursor := nextCursor s.activeChannelCount s.frameCursor } = .next t) : Inv t := by
  have hrun := h.busyRuns (by simp [hp])
  obtain ⟨hle, htx⟩ := h.inSlot hp
  have hcnt : s.cnt = 10 := le_antisymm hle hge
  have hhigh : s.tx = true := by rw [htx, hcnt]; rfl
  have hadvanced : PhaselessInv { s with frameCursor := nextCursor s.activeChannelCount s.frameCursor } :=
    { h with cursorLeCount := nextCursor_le _ _, stoppedEmpty := by simp [hrun] }
  exact hadvanced.inv_of_dispatch hbreak hrun hhigh hd

/-- Every edge keeps the invariants, whatever its inputs. -/
theorem Inv.edgeOn {i : Inputs} {s t : State} (h : Inv s) (hbreak : 1 ≤ s.cfg.breakBits) (hmab : 1 ≤ s.cfg.mabBits)
    (he : edgeOn i s = .next t) : Inv t := by
  obtain ⟨-, rfl⟩ | ⟨-, hp, u, hu, ht⟩ | ⟨-, hp, rfl⟩ | ⟨-, hp, rfl⟩ | ⟨-, hp, hlt, rfl⟩ | ⟨-, hp, hge, hd⟩ :=
    edgeOn_cases he
  · exact inv_resetRegisters s
  · have hcfg : u.cfg = s.cfg := (commandEdge_frame hu).2.1
    exact (h.commandEdge hp hu).pulseEdge (hcfg ▸ hbreak) ht
  · exact h.breakEdge hmab hp
  · exact h.markEdge hp
  · exact h.slotAdvance hp hlt
  · exact h.slotEnd hbreak hp hge hd

/-! ## The obligations -/

/-- Settles O38: a `clk` cycle inside a bit period only counts, and the edge that ends it keeps the invariants in each
of its cases. -/
theorem stepKeepsInvariants : Obligations.StepKeepsInvariants := by
  intro s t hbreak hmab h hstep
  refine ⟨?_, step_cfg hstep⟩
  obtain ⟨hb, rfl⟩ | ⟨-, he⟩ := step_cases hstep
  · exact h.countClk hb
  · exact h.nextPeriod.edgeOn hbreak hmab he

/-- Settles O39: only an accepted command can change the host's state. -/
theorem engineNeverWritesHostState : Obligations.EngineNeverWritesHostState := by
  intro s t hr hnone h
  obtain hhost | ⟨-, i, u, hsome, -⟩ := step_sameHost_or_command hr h
  · exact hhost
  · simp [hnone] at hsome

/-- Settles O40: inside a bit period no slot changes; at its edge the change is a reset's or an accepted command's, and
of the commands only WRITE changes a slot, its own. -/
theorem slotChangesOnlyByItsWrite : Obligations.SlotChangesOnlyByItsWrite := by
  intro s t a hwf h hne
  by_cases hr : (inputNow s).rst = true
  · obtain ⟨-, rfl⟩ | ⟨hb, -⟩ := step_cases h
    · exact absurd (memRead_congr (countClk_channelBuffer s) a) hne
    · exact ⟨bitTick_of_le hb, .inl hr⟩
  · obtain ⟨hbuffer, -⟩ | ⟨htick, i, u, haccepted, hi, hexec, hbuffer, -⟩ :=
      step_sameHost_or_command (by simpa using hr) h
    · exact absurd (memRead_congr hbuffer a) hne
    · rw [memRead_congr hbuffer] at hne
      obtain ⟨value, rfl⟩ := exec_command_slot (s := nextPeriod s) hi hwf hexec hne
      exact ⟨htick, .inr ⟨value, haccepted⟩⟩

/-- Settles O41: without reset only an accepted command changes these registers, and each command writes only its
own. -/
theorem whoWritesCountFlagAndBinding : Obligations.WhoWritesCountFlagAndBinding := by
  intro s t hr h
  obtain ⟨-, hcount, hrun, hline⟩ | ⟨-, i, u, haccepted, hi, hexec, -, hcount, hrun, hline⟩ :=
    step_sameHost_or_command hr h
  · exact ⟨fun hne => absurd ⟨hcount, hrun⟩ (not_and_or.mpr hne), fun hne => absurd hline hne⟩
  · rw [hcount, hrun, hline]
    constructor
    · intro hne
      obtain ⟨c, v, rfl⟩ | ⟨c, rfl⟩ | hkept := exec_command_count_running hi hexec
      · exact .inl ⟨c, v, haccepted⟩
      · exact .inr ⟨c, haccepted⟩
      · exact absurd hkept (not_and_or.mpr hne)
    · intro hne
      obtain hsel | hkept := exec_command_binding hi hexec
      · rw [haccepted, ← hsel]
      · exact absurd hkept hne

/-- Settles O33: the edge is `resetRegisters`, which looks at neither the registers nor the other inputs. -/
theorem resetBeatsEverything : Obligations.ResetBeatsEverything := by
  intro s hb hr
  have hstep : step s = .next (resetRegisters (nextPeriod s)) := by rw [step_eq_edge hb, edge, edgeOn_rst hr]
  have hread : ∀ a < 512, memRead (resetRegisters (nextPeriod s)) a = .ok 0#8 := fun a ha => by simp [memRead_eq, ha]
  exact ⟨_, hstep, hread, by simp⟩

/-- Settles O34: the fields of `State.reset` one by one, and 0 read from the empty buffer. -/
theorem stateAfterReset : Obligations.StateAfterReset :=
  ⟨fun _ ha => if_pos ha, rfl, rfl, rfl, rfl, rfl, rfl, rfl, rfl, rfl, rfl, rfl, rfl⟩

/-- Settles O36: `State.reset` holds the reset value in every register. -/
theorem invariantsHoldAtReset : Obligations.InvariantsHoldAtReset := inv_resetRegisters State.reset

end Machine
end Sys2Proof
end

section
/-! PROOFS of the statements of spec/20_memory.md: a fetch sees the write of its own edge (R62), and no fetch reads
outside the buffer (R50). -/

namespace Sys2Proof
namespace Machine

/-! ## CHANNEL outside the buffer (R50) -/

theorem execChannel_zero (s : State) : execChannel 0 s = .fault (.noSuchSlot 0) := rfl

/-- Past the buffer it is `MemRead` that stops. -/
theorem execChannel_pastBuffer {k : Nat} (h : 512 < k) (s : State) :
    execChannel k s = .fault (.noSuchSlot (k - 1)) := by
  unfold execChannel
  rw [if_neg (by omega), memRead_eq, if_neg (by omega)]

/-! ## WRITE to the channel at the cursor (R157, R158) -/

/-- The stored byte is the value clamped to 0..255 (R158). -/
theorem clamp8_toNat (x : Int) : ((clamp8 x).toNat : Int) = max 0 (min x 255) := by
  unfold clamp8
  split_ifs
  all_goals
    simp only [BitVec.toNat_ofNat]
    omega

/-- On a running engine with its cursor inside the frame, WRITE in range writes the slot and the count and nothing
else: there is no start, and `Normalise()` cannot fire. -/
theorem execWrite_running {channel : Int} {s : State} (hrun : s.engineRunning = true)
    (hcursor : s.frameCursor ≤ s.activeChannelCount) (hc : 1 ≤ channel ∧ channel ≤ 512) (value : Int) :
    execWrite channel value s = .next { s with
      channelBuffer := bufferWrite s.channelBuffer (channelIndex channel) (clamp8 value)
      activeChannelCount := max s.activeChannelCount channel.toNat } := by
  have hstarted : ensureRunning s = s := if_pos hrun
  rw [execWrite_inRange hc, hstarted]
  exact congrArg Host.Outcome.next (normalise_of_le (hcursor.trans (le_max_left _ _)))

/-! ## A command and a pulse at one edge (R146) -/

/-- A presented command is executed. -/
theorem commandEdge_valid {i : Inputs} (hv : i.cmdValid = true) (s : State) :
    commandEdge i s = exec (decodeCommand i.cmdWord) s := by
  simp [commandEdge, presentedCommand, hv]

/-- A pulse that an idle running engine sees is accepted. -/
theorem pulseEdge_accepted {i : Inputs} {s : State} (ht : i.tick = true) (hp : s.phase = .idle)
    (hrun : s.engineRunning = true) : pulseEdge i s = dispatch { s with budget := budgetBits s.cfg } :=
  (if_pos ht).trans (execTick_accepted hp hrun)

/-- The edge that accepts both a command and a pulse dispatches on the state the command left. -/
theorem edgeOn_command_then_tick {i : Inputs} {s u : State} (hr : i.rst = false) (hp : s.phase = .idle)
    (hv : i.cmdValid = true) (ht : i.tick = true) (hu : exec (decodeCommand i.cmdWord) s = .next u)
    (hrun : u.engineRunning = true) : edgeOn i s = dispatch { u with budget := budgetBits u.cfg } := by
  have hcommand : commandEdge i s = .next u := (commandEdge_valid hv s).trans hu
  obtain ⟨⟨-, hphase, -⟩, -⟩ := commandEdge_frame hcommand
  rw [edgeOn_idle hr hp, idleEdge, hcommand, andThen_next, pulseEdge_accepted ht (hphase.trans hp) hrun]

/-! ## The obligations -/

/-- Settles O31: the WRITE comes first and leaves the cursor on its channel, so `Dispatch()` starts CHANNEL on the
buffer the WRITE left and reads the clamped value back. -/
theorem fetchSeesTheSameEdgeWrite : Obligations.FetchSeesTheSameEdgeWrite := by
  intro s channel value hb hr hp hrun hwf hcursor hvalid hdecode htick hchannel h1 h512 hbudget
  have hwrite := execWrite_running (s := nextPeriod s) hrun hcursor ⟨h1, h512⟩ value
  have hedge := edgeOn_command_then_tick (s := nextPeriod s) hr hp hvalid htick
    ((congrArg (exec · (nextPeriod s)) hdecode).trans hwrite) hrun
  have hfirst : 1 ≤ s.frameCursor := by omega
  have hlast : s.frameCursor ≤ 512 := by omega
  refine ⟨_, ((step_eq_edge hb).trans hedge).trans (dispatch_channel hfirst hlast hbudget), rfl, rfl, rfl, ?_, rfl⟩
  have hindex : s.frameCursor - 1 = channelIndex channel := by unfold channelIndex; omega
  simp [bufferRead_bufferWrite hwf, hindex, clamp8_toNat]

/-- Settles O17: CHANNEL(0) stops before it reads, and past the buffer `MemRead` stops. -/
theorem channelOutsideTheBufferStops : Obligations.ChannelOutsideTheBufferStops := by
  rintro s k (rfl | hk)
  · exact ⟨0, execChannel_zero s⟩
  · exact ⟨k - 1, execChannel_pastBuffer hk s⟩

end Machine
end Sys2Proof
end

section
/-! PROOFS of the statements of spec/30_encoding.md: a frame on the wire (R71), and the command words (R76, R78). -/

namespace Sys2Proof
namespace Machine

/-! ## Command words (R76, R78) -/

/-- The command that each value of the field `op` stands for. -/
theorem decodeCommand_cases (w : CmdWord) :
    (cmdOp w = 0b00#2 ∧ decodeCommand w = .write (sint16 (cmdA w)) (sint16 (cmdV w))) ∨
    (cmdOp w = 0b01#2 ∧ decodeCommand w = .setmax (sint16 (cmdA w))) ∨
    (cmdOp w = 0b10#2 ∧ decodeCommand w = .selline (cmdA w)) ∨
    (cmdOp w = 0b11#2 ∧ decodeCommand w = .rsvd) := by
  have hop : ∀ op : BitVec 2, op = 0b00#2 ∨ op = 0b01#2 ∨ op = 0b10#2 ∨ op = 0b11#2 := by decide
  rcases hop (cmdOp w) with h | h | h | h
  all_goals simp [decodeCommand, h]

/-- Every row of format CMD has the mask of the field `op`, so a row covers a word by that field alone. -/
theorem covers_eq_of_mem_commandRows {r : CommandRow} (hr : r ∈ commandRows) (w : CmdWord) :
    r.covers w = (cmdWord (cmdOp w) 0#16 0#16 == r.pattern) := by
  have hmask : ∀ r ∈ commandRows, r.mask = 0x300000000#34 := by decide
  rw [CommandRow.covers, hmask r hr, and_opMask]

/-- The rows that cover a word are those whose pattern holds the word's field `op`. -/
theorem filter_covers_commandRows {w : CmdWord} {op : BitVec 2} (h : cmdOp w = op) :
    commandRows.filter (fun r => r.covers w) = commandRows.filter (fun r => cmdWord op 0#16 0#16 == r.pattern) := by
  subst h
  exact List.filter_congr fun r hr => covers_eq_of_mem_commandRows hr w

/-! ## Runs and what they show -/

/-- From `s` to `t` in one bit period per level of `levels`, each on the line in its period. -/
structure Shows (levels : List Level) (s t : State) : Prop where
  run : runEdges levels.length s = .next t
  onWire : wire levels.length s = levels

theorem wire_succ {s t : State} (h : edge s = .next t) (k : Nat) : wire (k + 1) s = s.tx :: wire k t := by
  simp [wire, h]

theorem runEdges_succ {s t : State} (h : edge s = .next t) (k : Nat) : runEdges (k + 1) s = runEdges k t := by
  simp [runEdges, h]

theorem Shows.cons {levels : List Level} {s t u : State} (h : edge s = .next t) (ht : Shows levels t u) :
    Shows (s.tx :: levels) s u where
  run := (runEdges_succ h _).trans ht.run
  onWire := (wire_succ h _).trans (congrArg (s.tx :: ·) ht.onWire)

theorem Shows.nil (s : State) : Shows [] s s := ⟨rfl, rfl⟩

theorem Shows.exists_edge {l : Level} {levels : List Level} {s u : State} (h : Shows (l :: levels) s u) :
    ∃ t, edge s = .next t ∧ s.tx = l ∧ Shows levels t u := by
  obtain ⟨t, hedge, hrun⟩ := andThen_eq_next.mp h.run
  have hwire : s.tx :: wire levels.length t = l :: levels := (wire_succ hedge _).symm.trans h.onWire
  obtain ⟨htx, hrest⟩ := List.cons.inj hwire
  exact ⟨t, hedge, htx, hrun, hrest⟩

theorem Shows.append {first second : List Level} {s t u : State} (h : Shows first s t) (h' : Shows second t u) :
    Shows (first ++ second) s u := by
  induction first generalizing s with
  | nil =>
    have hst : s = t := Host.Outcome.next.inj h.run
    exact hst ▸ h'
  | cons l first ih =>
    obtain ⟨v, hedge, rfl, hv⟩ := h.exists_edge
    exact (ih hv).cons hedge

/-! ## Time -/

/-- `s` after `n` bit periods (at least one) in which nothing but the time has changed. -/
def afterPeriods (n : Nat) (s : State) : State :=
  { s with baudCnt := 0, period := s.period + n, inputs := s.inputs.drop n }

theorem nextPeriod_eq_afterPeriods (s : State) : nextPeriod s = afterPeriods 1 s := by
  simp [nextPeriod, afterPeriods]

theorem inputAt_afterPeriods (n : Nat) (s : State) (j : Nat) : inputAt (afterPeriods n s) j = inputAt s (n + j) := by
  simp [inputAt, afterPeriods, Nat.add_assoc]

/-- The periods that follow an edge inside a phase, counted from the period before it. -/
theorem afterPeriods_nextPeriod (n cnt : Nat) (tx : Level) (s : State) :
    afterPeriods n { nextPeriod s with cnt := cnt, tx := tx } =
      { afterPeriods (n + 1) s with cnt := cnt, tx := tx } := by
  simp [afterPeriods, nextPeriod, Nat.add_assoc, Nat.add_comm 1 n]

theorem NoReset.mono {m n : Nat} {s : State} (h : NoReset n s) (hm : m ≤ n) : NoReset m s :=
  fun j hj => h j (hj.trans_le hm)

/-- Later periods of a run without reset are without reset. -/
theorem NoReset.afterPeriods {m n k : Nat} {s : State} (h : NoReset k s) (hk : n + m ≤ k) :
    NoReset m (afterPeriods n s) := by
  intro j hj
  rw [inputAt_afterPeriods]
  exact h _ (by omega)

/-! ## The periods of a phase -/

/-- The level in period `j` of the phase that is under way (10_state.md R36, items 2 and 7). -/
def phaseLevel (s : State) (j : Nat) : Level :=
  match s.phase with
  | .idle | .mab => true
  | .brk => false
  | .slot => slotLevel s.txbyte j

/-- The index of the last period of the phase that is under way. -/
def lastPeriod (s : State) : Nat :=
  match s.phase with
  | .idle => 0
  | .brk => s.cfg.breakBits - 1
  | .mab => s.cfg.mabBits - 1
  | .slot => lastSlotBit

/-- An edge inside a phase counts its period and leaves the phase's next level on the line. -/
theorem edge_inside_phase {s : State} (hr : (inputNow s).rst = false) (hcnt : s.cnt < lastPeriod s)
    (htx : s.tx = phaseLevel s s.cnt) :
    edge s = .next { nextPeriod s with cnt := s.cnt + 1, tx := phaseLevel s (s.cnt + 1) } := by
  cases hp : s.phase with
  | idle => simp [lastPeriod, hp] at hcnt
  | brk =>
    simp only [lastPeriod, phaseLevel, hp] at hcnt htx ⊢
    rw [edge, edgeOn_brk hr (s := nextPeriod s) hp, breakEdge_eq, ← htx]
    exact congrArg Host.Outcome.next (if_pos (Nat.add_lt_of_lt_sub hcnt))
  | mab =>
    simp only [lastPeriod, phaseLevel, hp] at hcnt htx ⊢
    rw [edge, edgeOn_mab hr (s := nextPeriod s) hp, markEdge_eq, ← htx]
    exact congrArg Host.Outcome.next (if_pos (Nat.add_lt_of_lt_sub hcnt))
  | slot =>
    simp only [lastPeriod, phaseLevel, hp] at hcnt ⊢
    rw [edge, edgeOn_slot hr (s := nextPeriod s) hp, slotEdge_eq]
    exact if_pos hcnt

/-- The rest of a phase on the line: its levels from the current period to the last, whose edge ends the phase. -/
theorem shows_rest_of_phase {n : Nat} {s t : State} (hlast : s.cnt + n = lastPeriod s)
    (htx : s.tx = phaseLevel s s.cnt) (hr : NoReset n s)
    (hend : edgeOn (inputAt s n)
      { afterPeriods (n + 1) s with cnt := lastPeriod s, tx := phaseLevel s (lastPeriod s) } = .next t) :
    Shows ((List.range' s.cnt (n + 1)).map (phaseLevel s)) s t := by
  induction n generalizing s with
  | zero =>
    rw [Nat.add_zero] at hlast
    rw [← hlast, ← htx] at hend
    rw [List.range'_one, List.map_singleton, ← htx]
    exact (Shows.nil t).cons (by rw [edge, nextPeriod_eq_afterPeriods]; exact hend)
  | succ n ih =>
    have hedge := edge_inside_phase (hr 0 (Nat.succ_pos n)) (by omega) htx
    rw [List.range'_succ, List.map_cons, ← htx]
    refine (ih (s := { nextPeriod s with cnt := s.cnt + 1, tx := phaseLevel s (s.cnt + 1) })
      ((Nat.add_right_comm _ _ _).trans hlast) rfl ?_ ?_).cons hedge
    · intro j hj
      exact (congrArg Inputs.rst (inputAt_nextPeriod s j)).trans (hr (j + 1) (by omega))
    · rw [afterPeriods_nextPeriod]
      exact (congrArg (edgeOn · _) (inputAt_nextPeriod s n)).trans hend

/-- A whole phase of `n + 1` periods on the line. -/
theorem shows_phase {n : Nat} {s t : State} (hcnt : s.cnt = 0) (hlast : lastPeriod s = n)
    (htx : s.tx = phaseLevel s 0) (hr : NoReset n s)
    (hend : edgeOn (inputAt s n) { afterPeriods (n + 1) s with cnt := n, tx := phaseLevel s n } = .next t) :
    Shows ((List.range (n + 1)).map (phaseLevel s)) s t := by
  rw [List.range_eq_range', ← hcnt]
  exact shows_rest_of_phase (by omega) (by rw [hcnt, htx]) hr (by rw [hlast]; exact hend)

/-- A whole phase of `n + 1` periods that holds the line at one level. -/
theorem shows_level_phase {n : Nat} {l : Level} {s t : State} (hcnt : s.cnt = 0) (hlast : lastPeriod s = n)
    (hlevel : ∀ j, phaseLevel s j = l) (htx : s.tx = l) (hr : NoReset n s)
    (hend : edgeOn (inputAt s n) { afterPeriods (n + 1) s with cnt := n, tx := l } = .next t) :
    Shows (List.replicate (n + 1) l) s t := by
  have hlevels : List.replicate (n + 1) l = (List.range (n + 1)).map (phaseLevel s) := by simp [funext hlevel]
  rw [hlevels]
  exact shows_phase hcnt hlast (htx.trans (hlevel 0).symm) hr ((hlevel n).symm ▸ hend)

/-- The break on the line, up to the first period of the mark (42_frame_sequencer.md R117). -/
theorem shows_break {s : State} (hp : s.phase = .brk) (hcnt : s.cnt = 0) (htx : s.tx = false)
    (hbits : 1 ≤ s.cfg.breakBits) (hr : NoReset s.cfg.breakBits s) :
    Shows (List.replicate s.cfg.breakBits false) s
      { afterPeriods s.cfg.breakBits s with phase := .mab, cnt := 0, tx := true } := by
  obtain ⟨n, hn⟩ := Nat.exists_eq_add_of_le' hbits
  have hlast : lastPeriod s = n := by simp [lastPeriod, hp, hn]
  have hends : ¬n + 1 < s.cfg.breakBits := by omega
  rw [hn] at hr ⊢
  refine shows_level_phase hcnt hlast (by simp [phaseLevel, hp]) htx (NoReset.mono hr (by omega)) ?_
  exact (edgeOn_brk (hr n (by omega)) (by exact hp)).trans
    ((breakEdge_eq _).trans (congrArg Host.Outcome.next (if_neg hends)))

/-- The mark after break on the line, up to the first period of the start code (42_frame_sequencer.md R118). -/
theorem shows_mark {s : State} (hp : s.phase = .mab) (hcnt : s.cnt = 0) (htx : s.tx = true)
    (hbits : 1 ≤ s.cfg.mabBits) (hr : NoReset s.cfg.mabBits s) :
    Shows (List.replicate s.cfg.mabBits true) s
      { afterPeriods s.cfg.mabBits s with phase := .slot, cnt := 0, txbyte := 0x00#8, tx := false } := by
  obtain ⟨n, hn⟩ := Nat.exists_eq_add_of_le' hbits
  have hlast : lastPeriod s = n := by simp [lastPeriod, hp, hn]
  have hends : ¬n + 1 < s.cfg.mabBits := by omega
  rw [hn] at hr ⊢
  refine shows_level_phase hcnt hlast (by simp [phaseLevel, hp]) htx (NoReset.mono hr (by omega)) ?_
  exact (edgeOn_mab (hr n (by omega)) (by exact hp)).trans
    ((markEdge_eq _).trans (congrArg Host.Outcome.next (if_neg hends)))

/-- The eleven levels of a slot, by the rule for each period (R70). -/
theorem map_slotLevel_range (b : Byte) : (List.range 11).map (slotLevel b) = slotLevels b := rfl

/-- A slot on the line, up to what `Dispatch()` makes of the cursor it advances (41_byte_transmitter.md R102, R103,
42_frame_sequencer.md R121). -/
theorem shows_slot {s t : State} (hp : s.phase = .slot) (hcnt : s.cnt = 0) (htx : s.tx = false) (hr : NoReset 11 s)
    (hd : dispatch { afterPeriods 11 s with
      cnt := 10, tx := true, frameCursor := nextCursor s.activeChannelCount s.frameCursor } = .next t) :
    Shows (slotLevels s.txbyte) s t := by
  have hlevel : phaseLevel s = slotLevel s.txbyte := by funext j; simp [phaseLevel, hp]
  have hlast : lastPeriod s = 10 := by simp [lastPeriod, hp, lastSlotBit]
  rw [← map_slotLevel_range, ← hlevel]
  refine shows_phase hcnt hlast (by rw [hlevel, htx]; rfl) (NoReset.mono hr (by omega)) ?_
  rw [hlevel]
  exact (edgeOn_slot (hr 10 (by omega)) (by exact hp)).trans hd

/-- A slot on the line where the cursor it advances selects a channel of the frame and the budget covers it: the
channel's slot follows at once. -/
theorem shows_slot_then_channel {s : State} (hp : s.phase = .slot) (hcnt : s.cnt = 0) (htx : s.tx = false)
    (hcursor : s.frameCursor < s.activeChannelCount) (hcount : s.activeChannelCount ≤ 512) (hbudget : 11 ≤ s.budget)
    (hr : NoReset 11 s) :
    Shows (slotLevels s.txbyte) s { afterPeriods 11 s with
      frameCursor := s.frameCursor + 1, budget := s.budget - 11, phase := .slot, cnt := 0,
      txbyte := bufferRead s.channelBuffer s.frameCursor, tx := false } := by
  have hnext : nextCursor s.activeChannelCount s.frameCursor = s.frameCursor + 1 := if_neg (by omega)
  refine shows_slot hp hcnt htx hr ?_
  rw [hnext]
  exact dispatch_channel (Nat.le_add_left 1 _) (hcursor.trans_le hcount) hbudget

/-! ## A frame on the wire (R71) -/

/-- The slots of `m` channels in ascending order, the first with the byte at index `first` of the buffer. -/
def channelsLevels (buffer : Memory) (first m : Nat) : List Level :=
  (List.range' first m).flatMap fun k => slotLevels (bufferRead buffer k)

theorem channelsLevels_succ (buffer : Memory) (first m : Nat) :
    channelsLevels buffer first (m + 1) =
      slotLevels (bufferRead buffer first) ++ channelsLevels buffer (first + 1) m := by
  simp [channelsLevels, List.range'_succ]

theorem channelsLevels_length (buffer : Memory) (first m : Nat) :
    (channelsLevels buffer first m).length = 11 * m := by
  induction m generalizing first with
  | zero => rfl
  | succ m ih =>
    rw [channelsLevels_succ, List.length_append, ih]
    simp only [slotLevels, List.length_cons, List.length_nil]
    omega

/-- From the first period of a slot on, with budget for the `m` channels up to the end of the frame: the slot, then the
slots of those channels, with nothing between them. -/
theorem shows_slot_and_channels {m : Nat} {s : State} (hp : s.phase = .slot) (hcnt : s.cnt = 0) (htx : s.tx = false)
    (hcursor : s.frameCursor + m = s.activeChannelCount) (hcount : s.activeChannelCount ≤ 512)
    (hbudget : 11 * m ≤ s.budget) (hr : NoReset (11 + 11 * m) s) :
    ∃ t, Shows (slotLevels s.txbyte ++ channelsLevels s.channelBuffer s.frameCursor m) s t := by
  induction m generalizing s with
  | zero =>
    obtain ⟨t, hd⟩ := dispatch_completes (s := { afterPeriods 11 s with
      cnt := 10, tx := true, frameCursor := nextCursor s.activeChannelCount s.frameCursor })
      ((nextCursor_le _ _).trans hcount)
    exact ⟨t, (List.append_nil _).symm ▸ shows_slot hp hcnt htx hr hd⟩
  | succ m ih =>
    have hslot := shows_slot_then_channel hp hcnt htx (by omega) hcount (by omega) (NoReset.mono hr (by omega))
    have hlater : NoReset (11 + 11 * m) (afterPeriods 11 s) := NoReset.afterPeriods hr (by omega)
    obtain ⟨t, hrest⟩ := ih (s := { afterPeriods 11 s with
        frameCursor := s.frameCursor + 1, budget := s.budget - 11, phase := .slot, cnt := 0,
        txbyte := bufferRead s.channelBuffer s.frameCursor, tx := false })
      rfl rfl rfl ((Nat.add_right_comm _ _ _).trans hcursor) hcount (Nat.le_sub_of_add_le hbudget) hlater
    exact ⟨t, channelsLevels_succ _ _ _ ▸ hslot.append hrest⟩

/-- An idle period of a running engine with a pulse and no command, at cursor 0 with budget for a BREAK, ends in the
first period of the break. -/
theorem edge_tick_break {s : State} (hr : (inputNow s).rst = false) (hp : s.phase = .idle)
    (hv : (inputNow s).cmdValid = false) (ht : (inputNow s).tick = true) (hrun : s.engineRunning = true)
    (hcursor : s.frameCursor = 0) (hbudget : 35 ≤ budgetBits s.cfg) :
    edge s = .next { nextPeriod s with budget := budgetBits s.cfg - 35, phase := .brk, cnt := 0, tx := false } := by
  have hcommand : commandEdge (inputNow s) (nextPeriod s) = .next (nextPeriod s) := by
    simp [commandEdge, presentedCommand, hv]
  rw [edge, edgeOn_idle hr (s := nextPeriod s) hp, idleEdge, hcommand, andThen_next,
    pulseEdge_accepted (s := nextPeriod s) ht hp hrun]
  exact dispatch_break hcursor hbudget

/-- From the first period of a break on, with budget for all channels of the frame: break, mark, start code and the
channels, with nothing between them. -/
theorem shows_frame {s : State} (hbreak : 1 ≤ s.cfg.breakBits) (hmab : 1 ≤ s.cfg.mabBits) (hp : s.phase = .brk)
    (hcnt : s.cnt = 0) (htx : s.tx = false) (hcursor : s.frameCursor = 0) (hcount : s.activeChannelCount ≤ 512)
    (hbudget : 11 * s.activeChannelCount ≤ s.budget)
    (hr : NoReset (breakDur s.cfg + 11 * s.activeChannelCount) s) :
    ∃ t, Shows (breakLevels s.cfg ++ channelsLevels s.channelBuffer 0 s.activeChannelCount) s t := by
  have hdur : breakDur s.cfg = s.cfg.breakBits + (s.cfg.mabBits + 11) := Nat.add_assoc _ _ _
  have hrMark : NoReset (s.cfg.mabBits + (11 + 11 * s.activeChannelCount)) (afterPeriods s.cfg.breakBits s) :=
    NoReset.afterPeriods hr (by omega)
  have hmark := shows_mark (s := { afterPeriods s.cfg.breakBits s with phase := .mab, cnt := 0, tx := true })
    rfl rfl rfl hmab (NoReset.mono hrMark (Nat.le_add_right _ _))
  obtain ⟨t, hslots⟩ := shows_slot_and_channels (m := s.activeChannelCount)
    (s := { afterPeriods s.cfg.mabBits { afterPeriods s.cfg.breakBits s with phase := .mab, cnt := 0, tx := true } with
      phase := .slot, cnt := 0, txbyte := 0x00#8, tx := false })
    rfl rfl rfl ((congrArg (· + _) hcursor).trans (Nat.zero_add _)) hcount hbudget (NoReset.afterPeriods hrMark le_rfl)
  have hbrk := shows_break hp hcnt htx hbreak (NoReset.mono hr (by omega))
  refine ⟨t, ?_⟩
  rw [← hcursor, breakLevels, List.append_assoc, List.append_assoc]
  exact hbrk.append (hmark.append hslots)

theorem breakLevels_length (c : Config) : (breakLevels c).length = breakDur c := by
  simp [breakLevels, slotLevels, breakDur, Config.slotBits, Nat.add_assoc]

/-! ## The obligations -/

/-- Settles O43: the idle period that accepts the pulse shows a high line, and its edge starts the frame, which the
loaded budget covers. -/
theorem frameOnTheWire : Obligations.FrameOnTheWire := by
  intro s h hbreak hmab hp hrun hcursor ht hv hbudget hr
  have hedge := edge_tick_break (hr 0 (by omega)) hp hv ht hrun hcursor (by omega)
  have hlater : NoReset (breakDur s.cfg + 11 * s.activeChannelCount) (afterPeriods 1 s) :=
    NoReset.afterPeriods hr le_rfl
  rw [nextPeriod_eq_afterPeriods] at hedge
  obtain ⟨t, hframe⟩ := shows_frame
    (s := { afterPeriods 1 s with budget := budgetBits s.cfg - 35, phase := .brk, cnt := 0, tx := false })
    hbreak hmab rfl rfl rfl hcursor h.countLe (Nat.le_sub_of_add_le' hbudget) hlater
  have hwire := (hframe.cons hedge).onWire
  rw [(h.idleLine hp).1, List.length_cons, List.length_append, breakLevels_length, channelsLevels_length,
    Nat.add_comm _ 1] at hwire
  rw [List.range_eq_range']
  exact hwire

/-- Settles O47: the field `op` of the word has one of four values, and each is the pattern of exactly one row. -/
theorem commandRowsPartitionAllWords : Obligations.CommandRowsPartitionAllWords := by
  intro w
  obtain ⟨hop, hw⟩ | ⟨hop, hw⟩ | ⟨hop, hw⟩ | ⟨hop, hw⟩ := decodeCommand_cases w
  all_goals
    rw [filter_covers_commandRows hop, hw]
    exact ⟨_, rfl, rfl⟩

/-- Settles O7: the decoder reads one of the four commands, and a command always answers a next state. -/
theorem everyCommandWordExecutes : Obligations.EveryCommandWordExecutes := by
  intro w s
  obtain ⟨t, hexec, -⟩ := exec_command (decodeCommand_isCommand w) s
  exact ⟨decodeCommand w, t, rfl, decodeCommand_isCommand w, hexec⟩

end Machine
end Sys2Proof
end

section
/-! PROOFS of the statements of spec/40_line_driver.md: SETLINE (R90), and that only the engine and the reset write the
line (R91, R92). -/

namespace Sys2Proof
namespace Machine

/-- Without a pulse step 2 of R146 does nothing. -/
theorem pulseEdge_quiet {i : Inputs} (ht : i.tick = false) (s : State) : pulseEdge i s = .next s := by
  simp [pulseEdge, ht]

/-- An edge in an idle period without a pulse is its command alone, so the engine's registers stay. -/
theorem edgeOn_idle_quiet_sameEngine {i : Inputs} {s t : State} (hr : i.rst = false) (hp : s.phase = .idle)
    (ht : i.tick = false) (h : edgeOn i s = .next t) : SameEngine s t := by
  rw [edgeOn_idle hr hp] at h
  obtain ⟨u, hcommand, hpulse⟩ := andThen_eq_next.mp h
  obtain rfl : u = t := Host.Outcome.next.inj ((pulseEdge_quiet ht u).symm.trans hpulse)
  exact (commandEdge_frame hcommand).1

/-! ## The obligations -/

/-- Settles O13: inside a bit period only the divider counts, and at its edge a command leaves the engine's registers,
of which the line and the phase are two. -/
theorem commandsLeaveTheLine : Obligations.CommandsLeaveTheLine := by
  intro s t hr hp htick h
  obtain ⟨-, rfl⟩ | ⟨-, he⟩ := step_cases h
  · exact ⟨countClk_tx s, hp⟩
  · obtain ⟨-, hphase, -, -, htx⟩ := edgeOn_idle_quiet_sameEngine (s := nextPeriod s) hr hp htick he
    exact ⟨htx, hphase.trans hp⟩

/-- Settles O9: SETLINE is the one register write of R90. -/
theorem setlineDrivesTheLine : Obligations.SetlineDrivesTheLine := fun s level => execSetline_eq level s

end Machine
end Sys2Proof
end

section
/-! PROOFS of the statements of spec/41_byte_transmitter.md: the levels of a slot (R100), the edge that starts one
(R101), and the edges inside it (R102). -/

namespace Sys2Proof
namespace Machine

/-! ## The levels of a slot (R100) -/

theorem slotLevel_data {j : Nat} (h1 : 1 ≤ j) (h8 : j ≤ 8) (b : Byte) : slotLevel b j = b.getLsbD (j - 1) :=
  (if_neg (by omega)).trans (if_pos h8)

/-! ## The edges inside a slot (R102) -/

theorem wire_one (s : State) : wire 1 s = [s.tx] := by
  unfold wire
  split <;> rfl

/-- What is on the line after a run that `Shows` levels continues them. -/
theorem Shows.wire_add {levels : List Level} {s t : State} (h : Shows levels s t) (k : Nat) :
    wire (levels.length + k) s = levels ++ wire k t := by
  induction levels generalizing s with
  | nil =>
    obtain rfl : s = t := Host.Outcome.next.inj h.run
    rw [List.length_nil, Nat.zero_add, List.nil_append]
  | cons l levels ih =>
    obtain ⟨u, hedge, rfl, hu⟩ := h.exists_edge
    rw [List.length_cons, Nat.add_right_comm, wire_succ hedge, ih hu, List.cons_append]

/-- Edge by edge through a phase, up to its last period at most: its levels are on the line, and apart from the time
only `cnt` and `tx` have moved. The divider is 0 after an edge and as before after none. -/
theorem shows_inside_phase {n : Nat} {s : State} (hlast : s.cnt + n ≤ lastPeriod s) (htx : s.tx = phaseLevel s s.cnt)
    (hr : NoReset n s) :
    ∃ divider, Shows ((List.range' s.cnt n).map (phaseLevel s)) s
      { afterPeriods n s with baudCnt := divider, cnt := s.cnt + n, tx := phaseLevel s (s.cnt + n) } := by
  induction n generalizing s with
  | zero =>
    refine ⟨s.baudCnt, ?_⟩
    rw [Nat.add_zero, ← htx]
    exact Shows.nil s
  | succ n ih =>
    have hedge := edge_inside_phase (hr 0 (Nat.succ_pos n)) (by omega) htx
    obtain ⟨divider, hrest⟩ := ih (s := { nextPeriod s with cnt := s.cnt + 1, tx := phaseLevel s (s.cnt + 1) })
      ((Nat.add_right_comm _ _ _).trans_le hlast) rfl
      (fun j hj => (congrArg Inputs.rst (inputAt_nextPeriod s j)).trans (hr (j + 1) (by omega)))
    rw [afterPeriods_nextPeriod, Nat.add_right_comm] at hrest
    rw [List.range'_succ, List.map_cons, ← htx]
    exact ⟨divider, hrest.cons hedge⟩

/-- The first `j` periods of a slot and the period they lead to, for each period `j` of the slot. -/
theorem shows_inside_slot {j : Nat} {s : State} (hp : s.phase = .slot) (hcnt : s.cnt = 0)
    (htx : s.tx = slotLevel s.txbyte 0) (hj : j ≤ 10) (hr : NoReset j s) :
    ∃ divider, Shows ((List.range j).map (slotLevel s.txbyte)) s
      { afterPeriods j s with baudCnt := divider, cnt := j, tx := slotLevel s.txbyte j } := by
  have hlevel : phaseLevel s = slotLevel s.txbyte := by funext i; simp [phaseLevel, hp]
  have hlast : lastPeriod s = 10 := by simp [lastPeriod, hp, lastSlotBit]
  have hshows := shows_inside_phase (by omega) (by rw [hlevel, hcnt, htx]) hr
  rwa [hlevel, hcnt, Nat.zero_add, ← List.range_eq_range'] at hshows

/-- From its first period on, a slot is on the line for eleven periods, whatever its last edge then dispatches. -/
theorem wire_slot {s : State} (hp : s.phase = .slot) (hcnt : s.cnt = 0) (htx : s.tx = slotLevel s.txbyte 0)
    (hr : NoReset 10 s) : wire 11 s = slotLevels s.txbyte := by
  obtain ⟨divider, hshows⟩ := shows_inside_slot hp hcnt htx le_rfl hr
  have hwire := hshows.wire_add 1
  rw [List.length_map, List.length_range, wire_one] at hwire
  exact hwire

/-! ## The obligations -/

/-- Settles O11: the edge is the four assignments of R101, which make the first period of a slot of `b`. -/
theorem sendbyteStartsASlot : Obligations.SendbyteStartsASlot := by
  refine ⟨fun s b => ⟨_, execSendbyte_eq b s, rfl, rfl, fun hr => ?_⟩, by decide, by decide, by decide⟩
  exact wire_slot rfl rfl rfl (NoReset.mono hr (by omega))

/-- Settles O12: the edge of a slot below its last period is the advance, and `j` advances lead to period `j`. -/
theorem slotAdvancesThroughItsByte : Obligations.SlotAdvancesThroughItsByte := by
  refine ⟨fun s hb hr hp hcnt => ?_, fun s j hp hcnt htx hj hr => ?_⟩
  · rw [step_eq_edge hb, edge, edgeOn_slot hr (s := nextPeriod s) hp, slotEdge_eq]
    exact if_pos hcnt
  · obtain ⟨divider, hshows⟩ := shows_inside_slot hp hcnt htx hj hr
    have hrun := hshows.run
    rw [List.length_map, List.length_range] at hrun
    exact ⟨_, hrun, hp, rfl, rfl, rfl, rfl, rfl, rfl, rfl, rfl, rfl⟩

/-- Settles O10: the start bit, the stop bits and the list of all eleven levels are `slotLevel` computed. -/
theorem slotLevelsAreStartDataStop : Obligations.SlotLevelsAreStartDataStop := fun b =>
  ⟨rfl, fun _ h1 h8 => slotLevel_data h1 h8 b, rfl, rfl, map_slotLevel_range b⟩

end Machine
end Sys2Proof
end

section
/-! PROOFS of the statements of spec/42_frame_sequencer.md: the BREAK and CHANNEL transitions on the wire (R117 to
R120, R126), the ways the cursor moves (R121, R122, R127), that no transition is cut short (R124), and that chunking is
transparent (R125). -/

namespace Sys2Proof
namespace Machine

/-! ## The cursor and the commands (R122, R164) -/

/-- `Normalise()` keeps the cursor or sends it to 0. -/
theorem normalise_frameCursor_eq_or_zero (s : State) :
    (normalise s).frameCursor = s.frameCursor ∨ (normalise s).frameCursor = 0 := by
  rw [normalise_frameCursor]
  exact (ite_eq_or_eq _ _ _).symm

/-- After a command the cursor is inside the frame. -/
theorem exec_command_cursor_le {i : Instr} {s t : State} (hi : isCommand i = true) (h : exec i s = .next t) :
    t.frameCursor ≤ t.activeChannelCount := by
  obtain ⟨c, v, -, -, rfl⟩ | ⟨c, v, -, rfl⟩ | ⟨c, -, rfl⟩ | ⟨c, -, rfl⟩ | ⟨line, -, rfl⟩ | ⟨-, rfl⟩ :=
    exec_command_cases hi h
  all_goals exact normalise_cursor_le _

/-- A command keeps the cursor or sends it to 0: a start does the latter, and so can `Normalise()`. -/
theorem exec_command_cursor_eq_or_zero {i : Instr} {s t : State} (hi : isCommand i = true) (h : exec i s = .next t) :
    t.frameCursor = s.frameCursor ∨ t.frameCursor = 0 := by
  have hend {u : State} (hu : u.frameCursor = s.frameCursor ∨ u.frameCursor = 0) :
      (normalise u).frameCursor = s.frameCursor ∨ (normalise u).frameCursor = 0 := by
    have hnorm := normalise_frameCursor_eq_or_zero u
    omega
  have hstarted (u : State) : (ensureRunning u).frameCursor = u.frameCursor ∨ (ensureRunning u).frameCursor = 0 := by
    rw [ensureRunning_frameCursor]
    exact ite_eq_or_eq _ _ _
  obtain ⟨c, v, -, -, rfl⟩ | ⟨c, v, -, rfl⟩ | ⟨c, -, rfl⟩ | ⟨c, -, rfl⟩ | ⟨line, -, rfl⟩ | ⟨-, rfl⟩ :=
    exec_command_cases hi h
  · exact hend (hstarted s)
  · exact hend (hstarted s)
  · exact hend (.inl rfl)
  · exact hend (hstarted (setCount (saturateCount c) s))
  · exact hend (ite_eq_or_eq _ _ _).symm
  · exact hend (.inl rfl)

/-- `Normalise()` moves the cursor only where the count has fallen below it. -/
theorem count_lt_of_normalise_moves {u : State} (h : (normalise u).frameCursor ≠ u.frameCursor) :
    u.activeChannelCount < u.frameCursor := by
  by_contra hle
  exact h (congrArg State.frameCursor (normalise_of_le (Nat.le_of_not_lt hle)))

/-- On a running engine with the cursor inside the frame, a command moves the cursor only if it is a SETMAX that lowers
the count below it, or a SELLINE. -/
theorem exec_command_moves_cursor {i : Instr} {s t : State} (hi : isCommand i = true) (h : exec i s = .next t)
    (hcursor : s.frameCursor ≤ s.activeChannelCount) (hrun : s.engineRunning = true)
    (hne : t.frameCursor ≠ s.frameCursor) :
    (∃ channel, i = .setmax channel ∧ t.activeChannelCount < s.frameCursor) ∨ ∃ line, i = .selline line := by
  have hstarted (u : State) (hu : u.engineRunning = true) : ensureRunning u = u := if_pos hu
  obtain ⟨c, v, -, -, rfl⟩ | ⟨c, v, -, rfl⟩ | ⟨c, rfl, rfl⟩ | ⟨c, rfl, rfl⟩ | ⟨line, rfl, -⟩ | ⟨-, rfl⟩ :=
    exec_command_cases hi h
  · rw [hstarted s hrun] at hne
    exact absurd (lt_of_le_of_lt (le_max_left _ _) (count_lt_of_normalise_moves hne)) (not_lt.mpr hcursor)
  · rw [hstarted s hrun] at hne
    exact absurd (count_lt_of_normalise_moves hne) (not_lt.mpr hcursor)
  · exact .inl ⟨c, rfl, count_lt_of_normalise_moves hne⟩
  · rw [hstarted (setCount (saturateCount c) s) hrun] at hne ⊢
    exact .inl ⟨c, rfl, count_lt_of_normalise_moves hne⟩
  · exact .inr ⟨line, rfl⟩
  · exact absurd (count_lt_of_normalise_moves hne) (not_lt.mpr hcursor)

/-! ## The cursor at an edge (R121, R127) -/

/-- `Dispatch()` reads the cursor and does not move it. -/
theorem dispatch_frameCursor {s t : State} (h : dispatch s = .next t) : t.frameCursor = s.frameCursor := by
  obtain ⟨-, -, rfl⟩ | ⟨-, -, -, rfl⟩ | ⟨-, rfl⟩ := dispatch_cases h
  all_goals rfl

theorem pulseEdge_frameCursor {i : Inputs} {s t : State} (h : pulseEdge i s = .next t) :
    t.frameCursor = s.frameCursor := by
  obtain rfl | ⟨-, -, hd⟩ := pulseEdge_next h
  · rfl
  · exact (dispatch_frameCursor hd :)

/-- An idle edge moves the cursor only by a command other than RSVD, and to 0. -/
theorem idle_edge_moves_cursor {s t u : State} (hcursor : s.frameCursor ≤ s.activeChannelCount)
    (hr : (inputNow s).rst = false) (hp : s.phase = .idle)
    (hcommand : commandEdge (inputNow s) (nextPeriod s) = .next u) (hpulse : pulseEdge (inputNow s) u = .next t)
    (hne : t.frameCursor ≠ s.frameCursor) : ∃ i, acceptedCommand s = some i ∧ i ≠ .rsvd ∧ t.frameCursor = 0 := by
  rw [pulseEdge_frameCursor hpulse] at hne ⊢
  obtain ⟨-, rfl⟩ | ⟨hv, hexec⟩ := commandEdge_next hcommand
  · exact absurd rfl hne
  · refine ⟨_, acceptedCommand_of_valid hr hp hv, fun hrsvd => hne ?_,
      (exec_command_cursor_eq_or_zero (decodeCommand_isCommand _) hexec).resolve_left hne⟩
    rw [hrsvd] at hexec
    obtain rfl : normalise (nextPeriod s) = u := Host.Outcome.next.inj hexec
    exact (congrArg State.frameCursor (normalise_of_le (s := nextPeriod s) hcursor) :)

/-! ## Steps inside a transition (R117, R118, R124) -/

theorem step_brk {s : State} (hb : bitTick s = true) (hr : (inputNow s).rst = false) (hp : s.phase = .brk) :
    step s = .next (if s.cnt < s.cfg.breakBits - 1 then { nextPeriod s with cnt := s.cnt + 1 }
      else { nextPeriod s with phase := .mab, cnt := 0, tx := true }) := by
  rw [step_eq_edge hb, edge, edgeOn_brk hr (s := nextPeriod s) hp, breakEdge_eq]
  exact congrArg Host.Outcome.next (if_congr Nat.lt_sub_iff_add_lt.symm rfl rfl)

theorem step_mab {s : State} (hb : bitTick s = true) (hr : (inputNow s).rst = false) (hp : s.phase = .mab) :
    step s = if s.cnt < s.cfg.mabBits - 1 then .next { nextPeriod s with cnt := s.cnt + 1 }
      else exec (.sendbyte 0x00#8) (nextPeriod s) := by
  rw [step_eq_edge hb, edge, edgeOn_mab hr (s := nextPeriod s) hp]
  exact if_congr Nat.lt_sub_iff_add_lt.symm rfl rfl

/-! ## The BREAK transition on the wire (R119, R126) -/

/-- The start code's slot is ten levels and the second stop bit. -/
theorem slotLevels_eq_append_stop (b : Byte) : slotLevels b = (List.range 10).map (slotLevel b) ++ [true] := rfl

/-- Break, mark and start code on the line, from the first period of the break to the last of the start code's slot:
apart from the time only phase, `cnt`, `txbyte` and `tx` have moved. -/
theorem shows_break_to_last_period {s : State} (hp : s.phase = .brk) (hcnt : s.cnt = 0) (htx : s.tx = false)
    (hbreak : 1 ≤ s.cfg.breakBits) (hmab : 1 ≤ s.cfg.mabBits) (hr : NoReset (breakDur s.cfg) s) :
    ∃ divider time inputs, Shows (List.replicate s.cfg.breakBits false ++ (List.replicate s.cfg.mabBits true ++
        (List.range 10).map (slotLevel 0x00#8))) s
      { s with baudCnt := divider, period := time, inputs := inputs, phase := .slot, cnt := 10, txbyte := 0x00#8,
               tx := true } := by
  have hdur : breakDur s.cfg = s.cfg.breakBits + (s.cfg.mabBits + 11) := Nat.add_assoc _ _ _
  have hrMark : NoReset (s.cfg.mabBits + 11) (afterPeriods s.cfg.breakBits s) := NoReset.afterPeriods hr (by omega)
  have hrSlot := NoReset.afterPeriods hrMark (n := s.cfg.mabBits) (m := 10) (by omega)
  have hbrk := shows_break hp hcnt htx hbreak (NoReset.mono hr (by omega))
  have hmark := shows_mark (s := { afterPeriods s.cfg.breakBits s with phase := .mab, cnt := 0, tx := true })
    rfl rfl rfl hmab (NoReset.mono hrMark (Nat.le_add_right _ _))
  obtain ⟨divider, hslot⟩ := shows_inside_slot (j := 10)
    (s := { afterPeriods s.cfg.mabBits { afterPeriods s.cfg.breakBits s with phase := .mab, cnt := 0, tx := true } with
      phase := .slot, cnt := 0, txbyte := 0x00#8, tx := false })
    rfl rfl rfl le_rfl hrSlot
  exact ⟨divider, _, _, hbrk.append (hmark.append hslot)⟩

/-! ## Every edge answers a next state (R146) -/

theorem pulseEdge_completes {i : Inputs} {s : State} (h : s.frameCursor ≤ 512) : ∃ t, pulseEdge i s = .next t := by
  by_cases ht : i.tick = true
  · by_cases ha : s.phase = .idle ∧ s.engineRunning = true
    · rw [pulseEdge_accepted ht ha.1 ha.2]
      exact dispatch_completes h
    · exact ⟨s, (if_pos ht).trans (execTick_ignored (by simpa [Classical.or_iff_not_imp_left] using ha))⟩
  · exact ⟨s, pulseEdge_quiet (by simpa using ht) s⟩

/-- The command of an edge always answers a next state. -/
theorem commandEdge_completes (i : Inputs) (s : State) : ∃ u, commandEdge i s = .next u := by
  cases hv : i.cmdValid
  · exact ⟨s, by simp [commandEdge, presentedCommand, hv]⟩
  · obtain ⟨u, hu, -⟩ := exec_command (decodeCommand_isCommand i.cmdWord) s
    exact ⟨u, (commandEdge_valid hv s).trans hu⟩

/-- Under the invariants every edge answers a next state. -/
theorem Inv.edgeOn_completes {s : State} (h : Inv s) (i : Inputs) : ∃ t, Machine.edgeOn i s = .next t := by
  have hcursor {u : State} (hu : Inv u) : u.frameCursor ≤ 512 := hu.cursorLeCount.trans hu.countLe
  cases hr : i.rst
  · cases hp : s.phase with
    | idle =>
      obtain ⟨u, hu⟩ := commandEdge_completes i s
      rw [edgeOn_idle hr hp, idleEdge, hu, andThen_next]
      exact pulseEdge_completes (hcursor (h.commandEdge hp hu))
    | brk => exact ⟨_, (edgeOn_brk hr hp).trans (breakEdge_eq s)⟩
    | mab => exact ⟨_, (edgeOn_mab hr hp).trans (markEdge_eq s)⟩
    | slot =>
      rw [edgeOn_slot hr hp, slotEdge_eq]
      split
      · exact ⟨_, rfl⟩
      · exact dispatch_completes ((nextCursor_le _ _).trans h.countLe)
  · exact ⟨_, edgeOn_rst hr⟩

/-- Without reset an edge writes nothing outside the block. -/
theorem edgeOn_sameWorld {i : Inputs} {s t : State} (hr : i.rst = false) (h : edgeOn i s = .next t) :
    SameWorld s t := by
  by_cases hp : s.phase = .idle
  · rw [edgeOn_idle hr hp] at h
    obtain ⟨u, hu, ht⟩ := andThen_eq_next.mp h
    obtain ⟨-, hcfg, hbaud, hperiod, hinputs⟩ := commandEdge_frame hu
    obtain ⟨-, hcfg', hbaud', hperiod', hinputs'⟩ := pulseEdge_frame ht
    exact ⟨hcfg'.trans hcfg, hbaud'.trans hbaud, hperiod'.trans hperiod, hinputs'.trans hinputs⟩
  · exact (edgeOn_busy_frame hr hp h).2

/-- After an edge without reset the inputs are those of the next period on. -/
theorem inputAt_of_edge {s t : State} (hr : (inputNow s).rst = false) (h : edge s = .next t) (j : Nat) :
    inputAt t j = inputAt s (j + 1) := by
  obtain ⟨-, -, hperiod, hinputs⟩ := edgeOn_sameWorld hr h
  rw [inputAt_congr hinputs hperiod, inputAt_nextPeriod]

/-! ## What the line has yet to show (R125) -/

/-- The levels of the phase under way, from the current period to its last. -/
def restOfPhase (s : State) : List Level :=
  (List.range' s.cnt (lastPeriod s + 1 - s.cnt)).map (phaseLevel s)

/-- The levels of the transition under way, from the current period to its last; none in an idle period. -/
def restOfTransition (s : State) : List Level :=
  match s.phase with
  | .idle => []
  | .brk => restOfPhase s ++ (List.replicate s.cfg.mabBits true ++ slotLevels startCode)
  | .mab => restOfPhase s ++ slotLevels startCode
  | .slot => restOfPhase s

/-- The cursor of the next transition to start, where no command intervenes. -/
def upcomingCursor (s : State) : Nat :=
  match s.phase with
  | .idle => s.frameCursor
  | .brk | .mab | .slot => nextCursor s.activeChannelCount s.frameCursor

/-- What the line has yet to show in flight: the rest of the transition under way, then `n` more. -/
def pendingLevels (n : Nat) (s : State) : List Level :=
  restOfTransition s ++ transitionsLevels s.cfg s.channelBuffer s.activeChannelCount n (upcomingCursor s)

/-- What the current period adds to the levels shown in flight. -/
def busyLevel (s : State) : List Level := if s.phase = .idle then [] else [s.tx]

theorem busyWire_succ {s t : State} (h : edge s = .next t) (k : Nat) :
    busyWire (k + 1) s = busyLevel s ++ busyWire k t := by
  simp [busyWire, busyLevel, h]

theorem pendingLevels_idle {s : State} (hp : s.phase = .idle) (n : Nat) :
    pendingLevels n s = transitionsLevels s.cfg s.channelBuffer s.activeChannelCount n s.frameCursor := by
  simp [pendingLevels, restOfTransition, upcomingCursor, hp]

/-- Under the invariants the line has the level of the period of its phase. -/
theorem Inv.tx_eq_phaseLevel {s : State} (h : Inv s) : s.tx = phaseLevel s s.cnt := by
  cases hp : s.phase with
  | idle => simpa [phaseLevel, hp] using (h.idleLine hp).1
  | brk => simpa [phaseLevel, hp] using (h.inBreak hp).1
  | mab => simpa [phaseLevel, hp] using (h.inMark hp).1
  | slot => simpa [phaseLevel, hp] using (h.inSlot hp).2

/-- Under the invariants `cnt` is the index of a period of its phase. -/
theorem Inv.cnt_le_lastPeriod {s : State} (h : Inv s) : s.cnt ≤ lastPeriod s := by
  cases hp : s.phase with
  | idle => simpa [lastPeriod, hp] using (h.idleLine hp).2
  | brk =>
    obtain ⟨-, -, hcnt⟩ := h.inBreak hp
    simpa [lastPeriod, hp] using Nat.le_sub_one_of_lt hcnt
  | mab =>
    obtain ⟨-, -, hcnt⟩ := h.inMark hp
    simpa [lastPeriod, hp] using Nat.le_sub_one_of_lt hcnt
  | slot => simpa [lastPeriod, hp, lastSlotBit] using (h.inSlot hp).1

/-- Below its last period a phase shows the current level, then the rest from the next period on. -/
theorem restOfPhase_inside {s : State} (hcnt : s.cnt < lastPeriod s) :
    restOfPhase s = phaseLevel s s.cnt ::
      restOfPhase { nextPeriod s with cnt := s.cnt + 1, tx := phaseLevel s (s.cnt + 1) } := by
  have hlength : lastPeriod s + 1 - s.cnt = (lastPeriod s + 1 - (s.cnt + 1)) + 1 := by omega
  rw [restOfPhase, hlength, List.range'_succ, List.map_cons]
  rfl

/-- In its last period a phase has the current level left to show. -/
theorem restOfPhase_last {s : State} (hcnt : s.cnt = lastPeriod s) : restOfPhase s = [phaseLevel s s.cnt] := by
  rw [restOfPhase, ← hcnt, Nat.add_sub_cancel_left, List.range'_one, List.map_singleton]

/-- In its first period a phase has all its periods left to show. -/
theorem restOfPhase_first {n : Nat} {s : State} (hcnt : s.cnt = 0) (hlast : lastPeriod s + 1 = n) :
    restOfPhase s = (List.range n).map (phaseLevel s) := by
  rw [restOfPhase, hcnt, hlast, List.range_eq_range', Nat.sub_zero]

/-- In its first period a break has a whole BREAK transition left to show. -/
theorem restOfTransition_break {s : State} (hp : s.phase = .brk) (hcnt : s.cnt = 0) (hbits : 1 ≤ s.cfg.breakBits) :
    restOfTransition s = breakLevels s.cfg := by
  have hlast : lastPeriod s + 1 = s.cfg.breakBits := by simp only [lastPeriod, hp]; omega
  have hlevel : phaseLevel s = fun _ => false := by funext j; simp [phaseLevel, hp]
  simp [restOfTransition, hp, restOfPhase_first hcnt hlast, hlevel, breakLevels, startCode]

/-- In its first period a mark has the mark and the start code left to show. -/
theorem restOfTransition_mark {s : State} (hp : s.phase = .mab) (hcnt : s.cnt = 0) (hbits : 1 ≤ s.cfg.mabBits) :
    restOfTransition s = List.replicate s.cfg.mabBits true ++ slotLevels startCode := by
  have hlast : lastPeriod s + 1 = s.cfg.mabBits := by simp only [lastPeriod, hp]; omega
  have hlevel : phaseLevel s = fun _ => true := by funext j; simp [phaseLevel, hp]
  simp [restOfTransition, hp, restOfPhase_first hcnt hlast, hlevel]

/-- In its first period a slot has its eleven levels left to show. -/
theorem restOfTransition_slot {s : State} (hp : s.phase = .slot) (hcnt : s.cnt = 0) :
    restOfTransition s = slotLevels s.txbyte := by
  have hlast : lastPeriod s + 1 = 11 := by simp [lastPeriod, hp, lastSlotBit]
  have hlevel : phaseLevel s = slotLevel s.txbyte := by funext j; simp [phaseLevel, hp]
  rw [← map_slotLevel_range, ← hlevel, ← restOfPhase_first hcnt hlast]
  simp [restOfTransition, hp]

/-- The first period of a break: the transition at cursor 0 is pending whole. -/
theorem pendingLevels_break {s : State} (hp : s.phase = .brk) (hcnt : s.cnt = 0) (hbits : 1 ≤ s.cfg.breakBits)
    (h0 : s.frameCursor = 0) (n : Nat) : pendingLevels n s =
      transitionsLevels s.cfg s.channelBuffer s.activeChannelCount (n + 1) s.frameCursor := by
  rw [pendingLevels, restOfTransition_break hp hcnt hbits, transitionsLevels, transitionLevels, if_pos h0]
  simp [upcomingCursor, hp]

/-- The first period of a channel's slot: the transition at its cursor is pending whole. -/
theorem pendingLevels_channel {s : State} (hp : s.phase = .slot) (hcnt : s.cnt = 0) (h1 : 1 ≤ s.frameCursor)
    (hbyte : s.txbyte = bufferRead s.channelBuffer (s.frameCursor - 1)) (n : Nat) : pendingLevels n s =
      transitionsLevels s.cfg s.channelBuffer s.activeChannelCount (n + 1) s.frameCursor := by
  rw [pendingLevels, restOfTransition_slot hp hcnt, hbyte, transitionsLevels, transitionLevels, if_neg (by omega)]
  simp [upcomingCursor, hp]

/-- `Dispatch()` starts the transition at the cursor, or returns and leaves it to come. -/
theorem pendingLevels_of_dispatch {s t : State} (hbits : 1 ≤ s.cfg.breakBits) (hd : dispatch s = .next t) (n : Nat) :
    ∃ m, pendingLevels n t = transitionsLevels s.cfg s.channelBuffer s.activeChannelCount m s.frameCursor := by
  obtain ⟨h0, -, rfl⟩ | ⟨h1, -, -, rfl⟩ | ⟨-, rfl⟩ := dispatch_cases hd
  · refine ⟨n + 1, pendingLevels_break ?_ ?_ ?_ ?_ n⟩
    exacts [rfl, rfl, hbits, h0]
  · refine ⟨n + 1, pendingLevels_channel ?_ ?_ ?_ ?_ n⟩
    exacts [rfl, rfl, h1, rfl]
  · exact ⟨n, pendingLevels_idle (by rfl) n⟩

/-- A pulse in an idle period starts the transition at the cursor, or leaves it to come. -/
theorem pendingLevels_of_pulse {i : Inputs} {s t : State} (hbits : 1 ≤ s.cfg.breakBits) (hp : s.phase = .idle)
    (h : pulseEdge i s = .next t) (n : Nat) :
    ∃ m, pendingLevels n t = transitionsLevels s.cfg s.channelBuffer s.activeChannelCount m s.frameCursor := by
  obtain rfl | ⟨-, -, hd⟩ := pulseEdge_next h
  · exact ⟨n, pendingLevels_idle hp n⟩
  · exact (pendingLevels_of_dispatch (s := { s with budget := budgetBits s.cfg }) hbits hd n :)

/-- An edge inside a phase shows one level of what is pending. -/
theorem pendingLevels_inside {s : State} (hcnt : s.cnt < lastPeriod s) (htx : s.tx = phaseLevel s s.cnt) (n : Nat) :
    pendingLevels n s = busyLevel s ++
      pendingLevels n { nextPeriod s with cnt := s.cnt + 1, tx := phaseLevel s (s.cnt + 1) } := by
  have hrest := restOfPhase_inside hcnt
  rw [← htx] at hrest
  cases hp : s.phase with
  | idle => simp [lastPeriod, hp] at hcnt
  | brk => simp [pendingLevels, restOfTransition, upcomingCursor, busyLevel, hp, hrest]
  | mab => simp [pendingLevels, restOfTransition, upcomingCursor, busyLevel, hp, hrest]
  | slot => simp [pendingLevels, restOfTransition, upcomingCursor, busyLevel, hp, hrest]

/-- The edge of a phase's last period shows the last level of the phase, and what is pending goes on with the next part
of the transition or with what `Dispatch()` starts. -/
theorem pendingLevels_last {s t : State} (hbreak : 1 ≤ s.cfg.breakBits) (hmab : 1 ≤ s.cfg.mabBits)
    (hcnt : s.cnt = lastPeriod s) (htx : s.tx = phaseLevel s s.cnt) (hr : (inputNow s).rst = false)
    (hv : (inputNow s).cmdValid = false) (he : edge s = .next t) (n : Nat) :
    ∃ m, pendingLevels m s = busyLevel s ++ pendingLevels n t := by
  have hrest := restOfPhase_last hcnt
  rw [← htx] at hrest
  obtain ⟨hr', -⟩ | ⟨-, hp, u, hu, ht⟩ | ⟨-, hp, rfl⟩ | ⟨-, hp, rfl⟩ | ⟨-, hp, hlt, rfl⟩ | ⟨-, hp, -, hd⟩ :=
    edgeOn_cases he
  · simp [hr] at hr'
  all_goals rw [nextPeriod_phase] at hp
  · obtain ⟨-, rfl⟩ | ⟨hv', -⟩ := commandEdge_next hu
    · obtain ⟨m, hm⟩ := pendingLevels_of_pulse (s := nextPeriod s) hbreak hp ht n
      refine ⟨m, ?_⟩
      rw [hm, pendingLevels_idle hp, busyLevel, if_pos hp]
      rfl
    · simp [hv] at hv'
  · have hends : ¬(nextPeriod s).cnt + 1 < (nextPeriod s).cfg.breakBits := by
      simp only [nextPeriod_cnt, nextPeriod_cfg, hcnt, lastPeriod, hp]
      omega
    have hmark := restOfTransition_mark (s := { nextPeriod s with phase := .mab, cnt := 0, tx := true }) rfl rfl hmab
    refine ⟨n, ?_⟩
    rw [if_neg hends, pendingLevels, pendingLevels, hmark]
    simp [restOfTransition, upcomingCursor, busyLevel, hp, hrest]
  · have hends : ¬(nextPeriod s).cnt + 1 < (nextPeriod s).cfg.mabBits := by
      simp only [nextPeriod_cnt, nextPeriod_cfg, hcnt, lastPeriod, hp]
      omega
    have hslot := restOfTransition_slot
      (s := { nextPeriod s with phase := .slot, cnt := 0, txbyte := 0x00#8, tx := false }) rfl rfl
    refine ⟨n, ?_⟩
    rw [if_neg hends, pendingLevels, pendingLevels, hslot]
    simp [restOfTransition, upcomingCursor, busyLevel, hp, hrest, startCode]
  · simp [hcnt, lastPeriod, hp, lastSlotBit] at hlt
  · obtain ⟨m, hm⟩ := pendingLevels_of_dispatch (s := { nextPeriod s with
      frameCursor := nextCursor s.activeChannelCount s.frameCursor }) hbreak hd n
    refine ⟨m, ?_⟩
    rw [hm]
    simp [pendingLevels, restOfTransition, upcomingCursor, busyLevel, hp, hrest]

/-- Edge by edge: without reset and command, what is pending before an edge is what its period shows in flight and what
is pending after it. -/
theorem Inv.pendingLevels_edge {s t : State} (h : Inv s) (hbreak : 1 ≤ s.cfg.breakBits) (hmab : 1 ≤ s.cfg.mabBits)
    (hr : (inputNow s).rst = false) (hv : (inputNow s).cmdValid = false) (he : edge s = .next t) (n : Nat) :
    ∃ m, pendingLevels m s = busyLevel s ++ pendingLevels n t := by
  obtain hlt | hlast := h.cnt_le_lastPeriod.lt_or_eq
  · obtain rfl := Host.Outcome.next.inj ((edge_inside_phase hr hlt h.tx_eq_phaseLevel).symm.trans he)
    exact ⟨n, pendingLevels_inside hlt h.tx_eq_phaseLevel n⟩
  · exact pendingLevels_last hbreak hmab hlast h.tx_eq_phaseLevel hr hv he n

/-- From any state of a run without reset and command, what the line shows in flight begins what is pending. -/
theorem Inv.busyWire_prefix_pendingLevels {k : Nat} {s : State} (h : Inv s) (hbreak : 1 ≤ s.cfg.breakBits)
    (hmab : 1 ≤ s.cfg.mabBits) (hr : NoReset k s) (hv : NoCommand k s) : ∃ n, busyWire k s <+: pendingLevels n s := by
  induction k generalizing s with
  | zero => exact ⟨0, List.nil_prefix⟩
  | succ k ih =>
    have hr0 := hr 0 (Nat.succ_pos k)
    obtain ⟨t, he⟩ := h.nextPeriod.edgeOn_completes (inputNow s)
    have hcfg : t.cfg = s.cfg := edgeOn_cfg (s := Machine.nextPeriod s) he
    have hlater := inputAt_of_edge hr0 he
    obtain ⟨n, hn⟩ := ih (h.nextPeriod.edgeOn hbreak hmab he) (hcfg ▸ hbreak) (hcfg ▸ hmab)
      (fun j hj => hlater j ▸ hr (j + 1) (by omega)) (fun j hj => hlater j ▸ hv (j + 1) (by omega))
    obtain ⟨m, hm⟩ := h.pendingLevels_edge hbreak hmab hr0 (hv 0 (Nat.succ_pos k)) he n
    rw [busyWire_succ he]
    exact ⟨m, hm ▸ (List.prefix_append_right_inj _).mpr hn⟩

/-! ## The obligations -/

/-- Settles O5: each command ends in `Normalise()`, and on a running engine whose cursor is inside the frame only
SETMAX can lower the count and only SELLINE starts the engine again. -/
theorem commandsNormaliseTheCursor : Obligations.CommandsNormaliseTheCursor := fun _ _ _ hi h =>
  ⟨exec_command_cursor_le hi h, exec_command_cursor_eq_or_zero hi h, exec_command_moves_cursor hi h⟩

/-- Settles O14: the edges of the break are those of R117, and the whole phase is on the line up to the mark. -/
theorem breakIsLowForBreakBits : Obligations.BreakIsLowForBreakBits := by
  refine ⟨execBrk_eq, fun _ => step_brk, fun s hp hcnt htx hbreak hr => ?_⟩
  obtain ⟨hrun, hwire⟩ := shows_break hp hcnt htx hbreak hr
  rw [List.length_replicate] at hrun hwire
  exact ⟨hwire, _, hrun, rfl, rfl, rfl⟩

/-- Settles O15: the edges of the mark are those of R118, and the whole phase is on the line up to the start code. -/
theorem markIsHighForMabBits : Obligations.MarkIsHighForMabBits := by
  refine ⟨fun _ => step_mab, fun s hp hcnt htx hmab hr => ?_⟩
  obtain ⟨hrun, hwire⟩ := shows_mark hp hcnt htx hmab hr
  rw [List.length_replicate] at hrun hwire
  exact ⟨hwire, _, hrun, rfl, rfl, rfl, rfl⟩

/-- Settles O16: CHANNEL(k) reads its slot and enters the first period of a slot, which is on the line whole. -/
theorem channelSendsItsSlot : Obligations.ChannelSendsItsSlot := by
  intro s k h1 h512
  have hread : memRead s (k - 1) = .ok (bufferRead s.channelBuffer (k - 1)) := by
    rw [memRead_eq, if_pos (by omega)]
  refine ⟨_, _, hread, execChannel_eq h1 h512 s, rfl, fun hr => ?_⟩
  have hr10 := NoReset.mono hr (m := 10) (by omega)
  obtain ⟨divider, hslot⟩ := shows_inside_slot rfl rfl rfl le_rfl hr10
  have hrun := hslot.run
  rw [List.length_map, List.length_range] at hrun
  exact ⟨wire_slot rfl rfl rfl hr10, _, hrun, rfl, rfl⟩

/-- Settles O18: the edge advances the cursor and dispatches, and `Dispatch()` moves neither the cursor nor the host's
state. -/
theorem cursorAdvancesAndWraps : Obligations.CursorAdvancesAndWraps := by
  intro s hb hr hp hcnt hcursor hcount
  obtain ⟨t, hd⟩ := dispatch_completes (s := { nextPeriod s with
    frameCursor := nextCursor s.activeChannelCount s.frameCursor }) ((nextCursor_le _ _).trans hcount)
  have hstep : step s = .next t := by
    rw [step_eq_edge hb, edge, edgeOn_slot hr (s := nextPeriod s) hp, slotEdge_eq]
    exact (if_neg (by rw [nextPeriod_cnt]; omega)).trans hd
  exact ⟨t, hstep, (dispatch_frame hd).1, dispatch_frameCursor hd⟩

/-- Settles O19: of the cases of an edge only the reset, the command and the end of a slot touch the cursor. -/
theorem cursorMovesOnlyByOneOrToZero : Obligations.CursorMovesOnlyByOneOrToZero := by
  intro s t hcursor h hne
  obtain ⟨-, rfl⟩ | ⟨-, he⟩ := step_cases h
  · exact absurd (countClk_frameCursor s) hne
  obtain ⟨hr, rfl⟩ | ⟨hr, hp, u, hu, ht⟩ | ⟨-, -, rfl⟩ | ⟨-, -, rfl⟩ | ⟨-, -, -, rfl⟩ | ⟨hr, hp, hge, hd⟩ :=
    edgeOn_cases he
  · exact .inl ⟨hr, rfl⟩
  · exact .inr (.inl (idle_edge_moves_cursor hcursor hr hp hu ht hne))
  · exact absurd (by split <;> rfl) hne
  · exact absurd (by split <;> rfl) hne
  · exact absurd rfl hne
  · exact .inr (.inr ⟨hr, hp, hge, dispatch_frameCursor hd⟩)

/-- Settles O20: inside a bit period nothing but the divider moves, and the edges of break, mark and slot go on to the
next part of the same transition; only the edge of a slot's last period dispatches. -/
theorem transitionsAreNeverCutShort : Obligations.TransitionsAreNeverCutShort := by
  intro s t hr h
  obtain ⟨-, rfl⟩ | ⟨-, he⟩ := step_cases h
  · exact ⟨.inl, .inl, fun hp _ => ⟨hp, rfl⟩, fun hp hidle => absurd hidle hp⟩
  obtain ⟨hr', -⟩ | ⟨-, hp, -⟩ | ⟨-, hp, rfl⟩ | ⟨-, hp, rfl⟩ | ⟨-, hp, -, rfl⟩ | ⟨-, hp, hge, -⟩ :=
    edgeOn_cases he
  · simp [hr] at hr'
  all_goals rw [nextPeriod_phase] at hp
  · simp [hp]
  · split <;> simp [hp]
  · split <;> simp [hp]
  · simp [hp]
  · rw [nextPeriod_cnt] at hge
    simp [hp, hge]

/-- Settles O21: the three parts of the transition follow each other on the line, and what comes after the last period
of the start code's slot does not matter to the wire. -/
theorem breakTransitionWaveform : Obligations.BreakTransitionWaveform := by
  intro s t hbreak hmab hexec hr
  obtain rfl : { s with phase := .brk, cnt := 0, tx := false } = t := Host.Outcome.next.inj hexec
  obtain ⟨divider, time, inputs, hshows⟩ :=
    shows_break_to_last_period (s := { s with phase := .brk, cnt := 0, tx := false }) rfl rfl rfl hbreak hmab hr
  have hrun := hshows.run
  have hwire := hshows.wire_add 1
  have hdur : breakDur s.cfg = s.cfg.breakBits + (s.cfg.mabBits + 10) + 1 := by
    simp only [breakDur, Config.slotBits]
    omega
  simp only [List.length_append, List.length_replicate, List.length_map, List.length_range] at hrun hwire
  rw [wire_one] at hwire
  rw [hdur, breakLevels, slotLevels_eq_append_stop]
  refine ⟨?_, _, hrun, rfl, rfl, rfl, rfl, rfl, rfl, rfl, rfl, rfl, rfl⟩
  simpa only [List.append_assoc] using hwire

/-- Settles O44: in an idle period nothing is under way, so what is pending is the transitions from the cursor on. -/
theorem chunkingIsTransparent : Obligations.ChunkingIsTransparent := by
  intro s k h hbreak hmab hp hr hv
  obtain ⟨n, hn⟩ := h.busyWire_prefix_pendingLevels hbreak hmab hr hv
  exact ⟨n, pendingLevels_idle hp n ▸ hn⟩

end Machine
end Sys2Proof
end

section
/-! PROOFS of the statements of spec/43_scheduler.md: `Dispatch()` and TICK (R135 to R138), that ticks make progress
(R142), that a tick returns within its budget (R144, R145), and the order of evaluation at an edge (R146). -/

namespace Sys2Proof
namespace Machine

/-! ## `Dispatch()` (R137) -/

/-- No transition costs more than a BREAK. -/
theorem cost_le_costBreak (cursor : Nat) : cost cursor ≤ costBreak := by
  unfold cost
  split <;> decide

/-- `Dispatch()` starts the operation that the decoder reads from the cursor (R116). -/
theorem startTransition_eq_exec (s : State) : startTransition s = exec (selectTransition s.frameCursor) s := by
  unfold startTransition selectTransition
  split <;> rfl

/-- Where the cost fits, `Dispatch()` is the selected operation with the cost charged. -/
theorem dispatch_eq_exec {s : State} (h : cost s.frameCursor ≤ s.budget) :
    dispatch s = exec (selectTransition s.frameCursor) { s with budget := s.budget - cost s.frameCursor } :=
  (if_pos h).trans (startTransition_eq_exec _)

/-- Where the cost fits, `Dispatch()` leads into the first, low period of a transition. -/
theorem dispatch_starts {s t : State} (hfits : cost s.frameCursor ≤ s.budget) (h : dispatch s = .next t) :
    t.phase ≠ .idle ∧ t.cnt = 0 ∧ t.tx = false ∧ t.budget = s.budget - cost s.frameCursor := by
  obtain ⟨h0, -, rfl⟩ | ⟨h1, -, -, rfl⟩ | ⟨hlt, -⟩ := dispatch_cases h
  · simp [cost_break h0]
  · simp [cost_channel h1]
  · omega

/-- The byte of a cursor in range is in the buffer. -/
theorem memRead_cursor {s : State} (h1 : 1 ≤ s.frameCursor) (h512 : s.frameCursor ≤ 512) :
    memRead s (s.frameCursor - 1) = .ok (bufferRead s.channelBuffer (s.frameCursor - 1)) := by
  rw [memRead_eq, if_pos (by omega)]

/-! ## The order at an idle edge (R146) -/

theorem commandEdge_none {i : Inputs} (hv : i.cmdValid = false) (s : State) : commandEdge i s = .next s := by
  simp [commandEdge, presentedCommand, hv]

theorem pulseEdge_tick {i : Inputs} (ht : i.tick = true) : pulseEdge i = exec .tick :=
  funext fun _ => if_pos ht

theorem andThen_pulseEdge_quiet {i : Inputs} (ht : i.tick = false) (o : Result) : andThen o (pulseEdge i) = o := by
  cases o with
  | next s => exact pulseEdge_quiet ht s
  | fault r => rfl
  | refused r => rfl

/-- The sampling cycle of an idle period without reset. -/
theorem step_idle {s : State} (hb : bitTick s = true) (hr : (inputNow s).rst = false) (hp : s.phase = .idle) :
    step s = andThen (commandEdge (inputNow s) (nextPeriod s)) (pulseEdge (inputNow s)) := by
  rw [step_eq_edge hb, edge, edgeOn_idle hr (s := nextPeriod s) hp, idleEdge]

/-- The edge of an idle period that sees a pulse, where the engine runs after it: the full budget is loaded and
dispatched on what the command left. -/
theorem edge_accepts_tick {s t : State} (hr : (inputNow s).rst = false) (hp : s.phase = .idle)
    (ht : (inputNow s).tick = true) (h : edge s = .next t) (hrun : t.engineRunning = true) :
    ∃ u : State, u.cfg = s.cfg ∧ dispatch { u with budget := budgetBits u.cfg } = .next t := by
  rw [edge, edgeOn_idle hr (s := nextPeriod s) hp] at h
  obtain ⟨u, hcommand, hpulse⟩ := andThen_eq_next.mp h
  obtain ⟨⟨-, hphase, -⟩, hcfg, -⟩ := commandEdge_frame hcommand
  obtain ⟨⟨-, -, hkept, -⟩, -⟩ := pulseEdge_frame hpulse
  rw [pulseEdge_accepted ht (hphase.trans hp) (hkept.symm.trans hrun)] at hpulse
  exact ⟨u, hcfg, hpulse⟩

/-! ## The end of a transition (R121, R137) -/

/-- The sampling cycle of the last period of a transition without reset. -/
theorem step_slot_end {s : State} (hb : bitTick s = true) (hr : (inputNow s).rst = false) (hp : s.phase = .slot)
    (hcnt : s.cnt = 10) :
    step s = dispatch { nextPeriod s with frameCursor := nextCursor s.activeChannelCount s.frameCursor } := by
  rw [step_eq_edge hb, edge, edgeOn_slot hr (s := nextPeriod s) hp, slotEdge_eq]
  exact if_neg (by rw [nextPeriod_cnt]; omega)

/-! ## Runs of edges -/

theorem runEdges_add (m n : Nat) (s : State) : runEdges (m + n) s = andThen (runEdges m s) (runEdges n) := by
  induction m generalizing s with
  | zero => rw [Nat.zero_add]; rfl
  | succ m ih =>
    rw [Nat.succ_add, runEdges, runEdges]
    cases edge s with
    | next t => exact ih t
    | fault r => rfl
    | refused r => rfl

/-- What every edge keeps, every run of edges keeps. -/
theorem runEdges_keeps {P : State → Prop} (hedge : ∀ {s t : State}, P s → edge s = .next t → P t) {k : Nat}
    {s t : State} (hs : P s) (h : runEdges k s = .next t) : P t := by
  induction k generalizing s with
  | zero => exact Host.Outcome.next.inj h ▸ hs
  | succ k ih =>
    obtain ⟨u, hu, ht⟩ := andThen_eq_next.mp h
    exact ih (hedge hs hu) ht

/-- After an edge without reset the rest of the run is without reset. -/
theorem NoReset.of_edge {k : Nat} {s t : State} (hr : NoReset (k + 1) s) (h : edge s = .next t) : NoReset k t :=
  fun j hj => (inputAt_of_edge (hr 0 (Nat.succ_pos k)) h j).symm ▸ hr (j + 1) (Nat.succ_lt_succ hj)

/-- A run without reset moves on time and the inputs by its periods. -/
theorem runEdges_time {k : Nat} {s t : State} (hr : NoReset k s) (h : runEdges k s = .next t) :
    t.period = s.period + k ∧ ∀ j, inputAt t j = inputAt s (k + j) := by
  induction k generalizing s with
  | zero =>
    obtain rfl : s = t := Host.Outcome.next.inj h
    exact ⟨rfl, fun j => by rw [Nat.zero_add]⟩
  | succ k ih =>
    obtain ⟨u, hu, ht⟩ := andThen_eq_next.mp h
    have hr0 := hr 0 (Nat.succ_pos k)
    obtain ⟨-, -, hperiod, -⟩ := edgeOn_sameWorld (s := nextPeriod s) hr0 hu
    obtain ⟨hperiods, hinputs⟩ := ih (hr.of_edge hu) ht
    refine ⟨?_, fun j => ?_⟩
    · rw [hperiods, hperiod, nextPeriod_period, Nat.add_assoc, Nat.add_comm 1 k]
    · rw [hinputs, inputAt_of_edge hr0 hu, Nat.add_right_comm]

/-- Idle periods without reset and pulse keep the line and leave the block idle, whatever commands are presented. -/
theorem shows_idle_quiet {k : Nat} {s : State} (hp : s.phase = .idle) (hr : NoReset k s)
    (hquiet : ∀ j < k, (inputAt s j).tick = false) :
    ∃ t, Shows (List.replicate k s.tx) s t ∧ t.phase = .idle ∧ t.tx = s.tx := by
  induction k generalizing s with
  | zero => exact ⟨s, Shows.nil s, hp, rfl⟩
  | succ k ih =>
    have hr0 := hr 0 (Nat.succ_pos k)
    have hquiet0 := hquiet 0 (Nat.succ_pos k)
    obtain ⟨u, hu⟩ := commandEdge_completes (inputNow s) (nextPeriod s)
    have hedge : edge s = .next u := by
      exact (edgeOn_idle hr0 (s := nextPeriod s) hp).trans ((andThen_pulseEdge_quiet hquiet0 _).trans hu)
    obtain ⟨⟨-, hphase, -, -, htx⟩, -⟩ := commandEdge_frame hu
    rw [nextPeriod_tx] at htx
    obtain ⟨t, hshows, hidle, hlevel⟩ := ih (hphase.trans hp) (hr.of_edge hedge)
      (fun j hj => (inputAt_of_edge hr0 hedge j).symm ▸ hquiet (j + 1) (Nat.succ_lt_succ hj))
    rw [htx] at hshows hlevel
    exact ⟨t, hshows.cons hedge, hidle, hlevel⟩

/-! ## A budget below the cost of a BREAK (R142) -/

/-- Idle at cursor 0 with the line high, and no tick can pay for the BREAK that is due. -/
structure StuckAtBreak (s : State) : Prop where
  budgetLt : budgetBits s.cfg < 35
  idle : s.phase = .idle
  cursor : s.frameCursor = 0
  line : s.tx = true

theorem StuckAtBreak.commandEdge {i : Inputs} {s u : State} (h : StuckAtBreak s)
    (hu : commandEdge i s = .next u) : StuckAtBreak u := by
  obtain ⟨⟨-, hphase, -, -, htx⟩, hcfg, -⟩ := commandEdge_frame hu
  have hcursor : u.frameCursor = 0 := by
    obtain ⟨-, rfl⟩ | ⟨-, hexec⟩ := commandEdge_next hu
    · exact h.cursor
    · obtain hkept | hzero := exec_command_cursor_eq_or_zero (decodeCommand_isCommand _) hexec
      · exact hkept.trans h.cursor
      · exact hzero
  exact ⟨hcfg ▸ h.budgetLt, hphase.trans h.idle, hcursor, htx.trans h.line⟩

theorem StuckAtBreak.pulseEdge {i : Inputs} {s t : State} (h : StuckAtBreak s) (ht : pulseEdge i s = .next t) :
    StuckAtBreak t := by
  obtain rfl | ⟨-, -, hd⟩ := pulseEdge_next ht
  · exact h
  · have hshort : budgetBits s.cfg < cost s.frameCursor := by
      rw [cost_break h.cursor]
      exact h.budgetLt
    rw [dispatch_return hshort] at hd
    obtain rfl := Host.Outcome.next.inj hd
    exact ⟨h.budgetLt, rfl, h.cursor, h.line⟩

/-- No edge leads out of it, a reset included. -/
theorem StuckAtBreak.edge {s t : State} (h : StuckAtBreak s) (he : edge s = .next t) : StuckAtBreak t := by
  have hnext : StuckAtBreak (nextPeriod s) := ⟨h.budgetLt, h.idle, h.cursor, h.line⟩
  by_cases hr : (inputNow s).rst = true
  · rw [Machine.edge, edgeOn_rst hr] at he
    obtain rfl := Host.Outcome.next.inj he
    exact ⟨h.budgetLt, rfl, rfl, rfl⟩
  · rw [Machine.edge, edgeOn_idle (by simpa using hr) hnext.idle] at he
    obtain ⟨u, hu, ht⟩ := andThen_eq_next.mp he
    exact (hnext.commandEdge hu).pulseEdge ht

/-! ## The work of a tick (R144) -/

/-- The periods of the transition under way, the current one included. -/
def periodsLeft (s : State) : Nat :=
  match s.phase with
  | .idle => 0
  | .brk => s.cfg.breakBits - s.cnt + s.cfg.mabBits + 11
  | .mab => s.cfg.mabBits - s.cnt + 11
  | .slot => 11 - s.cnt

/-- The most periods a tick can still keep a transition in flight. -/
def busyLeft (s : State) : Nat := periodsLeft s + busyBound s.cfg s.budget

theorem busyBound_mono (c : Config) {m n : Nat} (h : m ≤ n) : busyBound c m ≤ busyBound c n :=
  Nat.add_le_add h (Nat.mul_le_mul_right _ (Nat.div_le_div_right h))

/-- A BREAK takes its excess and its cost out of the bound. -/
theorem breakDur_add_busyBound_le (c : Config) {n : Nat} (h : 35 ≤ n) :
    breakDur c + busyBound c (n - 35) ≤ busyBound c n := by
  have hdiv : n / 35 = (n - 35) / 35 + 1 := Nat.div_eq_sub_div (by decide) h
  simp only [busyBound, costBreak, hdiv, Nat.add_mul, Nat.one_mul]
  omega

/-- The slot of a channel takes its cost, which is its length, out of the bound. -/
theorem slot_add_busyBound_le (c : Config) {n : Nat} (h : 11 ≤ n) : 11 + busyBound c (n - 11) ≤ busyBound c n := by
  have hexcess := Nat.mul_le_mul_right (breakDur c - costBreak) (Nat.div_le_div_right (c := costBreak) (Nat.sub_le n 11))
  unfold busyBound
  omega

/-- What `Dispatch()` starts fits the bound of the budget it found. -/
theorem busyLeft_of_dispatch {s t : State} (h : dispatch s = .next t) : busyLeft t ≤ busyBound s.cfg s.budget := by
  obtain ⟨-, hb, rfl⟩ | ⟨-, -, hb, rfl⟩ | ⟨-, rfl⟩ := dispatch_cases h
  · exact breakDur_add_busyBound_le s.cfg hb
  · exact slot_add_busyBound_le s.cfg hb
  · simp [busyLeft, periodsLeft]

/-- After the edge of an idle period the bound is at most that of the full budget. -/
theorem Inv.busyLeft_idle_edge {s t : State} (h : Inv s) (hp : s.phase = .idle) (hr : (inputNow s).rst = false)
    (he : edge s = .next t) : busyLeft t ≤ busyBound s.cfg (budgetBits s.cfg) := by
  rw [edge, edgeOn_idle hr (s := Machine.nextPeriod s) hp] at he
  obtain ⟨u, hu, ht⟩ := andThen_eq_next.mp he
  obtain ⟨⟨hbudget, hphase, -⟩, hcfg, -⟩ := commandEdge_frame hu
  rw [nextPeriod_cfg] at hcfg
  obtain rfl | ⟨-, -, hd⟩ := pulseEdge_next ht
  · have hidle : periodsLeft t = 0 := by simp [periodsLeft, hphase, hp]
    rw [busyLeft, hidle, Nat.zero_add, hcfg, hbudget]
    exact busyBound_mono s.cfg h.budgetLe
  · exact hcfg ▸ busyLeft_of_dispatch hd

/-- Each edge in flight takes at least one period off the bound. -/
theorem Inv.busyLeft_busy_edge {i : Inputs} {s t : State} (h : Inv s) (hp : s.phase ≠ .idle) (hr : i.rst = false)
    (he : Machine.edgeOn i s = .next t) : busyLeft t < busyLeft s := by
  obtain ⟨hr', -⟩ | ⟨-, hidle, -⟩ | ⟨-, hp, rfl⟩ | ⟨-, hp, rfl⟩ | ⟨-, hp, hlt, rfl⟩ | ⟨-, hp, -, hd⟩ := edgeOn_cases he
  · simp [hr] at hr'
  · exact absurd hidle hp
  · obtain ⟨-, -, hcnt⟩ := h.inBreak hp
    split <;> simp only [busyLeft, periodsLeft, hp] <;> omega
  · obtain ⟨-, -, hcnt⟩ := h.inMark hp
    split <;> simp only [busyLeft, periodsLeft, hp] <;> omega
  · simp only [busyLeft, periodsLeft, hp]
    omega
  · have hcnt := (h.inSlot hp).1
    have hnext : busyLeft t ≤ busyBound s.cfg s.budget := (busyLeft_of_dispatch hd :)
    simp only [busyLeft, periodsLeft, hp] at hnext ⊢
    omega

/-- A transition is in flight in each of the next `n` periods, the current one included, and none in the period after
them. -/
structure BusyFor (n : Nat) (s : State) : Prop where
  busy : ∀ j < n, ∃ u, runEdges j s = .next u ∧ u.phase ≠ .idle
  returns : ∃ t, runEdges n s = .next t ∧ t.phase = .idle

theorem BusyFor.cons {n : Nat} {s t : State} (hp : s.phase ≠ .idle) (he : edge s = .next t) (h : BusyFor n t) :
    BusyFor (n + 1) s where
  busy
    | 0, _ => ⟨s, rfl, hp⟩
    | j + 1, hj => runEdges_succ he j ▸ h.busy j (Nat.lt_of_succ_lt_succ hj)
  returns := runEdges_succ he n ▸ h.returns

theorem BusyFor.idle {s : State} (hp : s.phase = .idle) : BusyFor 0 s where
  busy _ hj := absurd hj (Nat.not_lt_zero _)
  returns := ⟨s, rfl, hp⟩

theorem Inv.busyLeft_pos {s : State} (h : Inv s) (hp : s.phase ≠ .idle) : 0 < busyLeft s := by
  refine Nat.add_pos_left ?_ _
  cases hphase : s.phase with
  | idle => exact absurd hphase hp
  | brk => simp [periodsLeft, hphase]
  | mab => simp [periodsLeft, hphase]
  | slot =>
    have hcnt := (h.inSlot hphase).1
    simp only [periodsLeft, hphase]
    omega

/-- Without reset the work under way ends within the bound. -/
theorem Inv.exists_busyFor {n : Nat} {s : State} (h : Inv s) (hbreak : 1 ≤ s.cfg.breakBits) (hmab : 1 ≤ s.cfg.mabBits)
    (hn : busyLeft s ≤ n) (hr : NoReset n s) : ∃ L ≤ n, BusyFor L s := by
  induction n generalizing s with
  | zero =>
    have hp : s.phase = .idle := by
      by_contra hp
      exact absurd hn (Nat.not_le.mpr (h.busyLeft_pos hp))
    exact ⟨0, le_rfl, .idle hp⟩
  | succ n ih =>
    by_cases hp : s.phase = .idle
    · exact ⟨0, Nat.zero_le _, .idle hp⟩
    · obtain ⟨t, he⟩ := h.nextPeriod.edgeOn_completes (inputNow s)
      have hless : busyLeft t < busyLeft s := h.nextPeriod.busyLeft_busy_edge hp (hr 0 (Nat.succ_pos n)) he
      have hcfg : t.cfg = s.cfg := edgeOn_cfg (s := Machine.nextPeriod s) he
      obtain ⟨L, hL, hbusy⟩ := ih (h.nextPeriod.edgeOn hbreak hmab he) (hcfg ▸ hbreak) (hcfg ▸ hmab) (by omega)
        (hr.of_edge he)
      exact ⟨L + 1, Nat.succ_le_succ hL, hbusy.cons hp he⟩

/-! ## Periodic ticks (R145) -/

/-- The phase of the periodic timer is that of a period with a pulse. -/
theorem PeriodicTick.phase_eq {φ n : Nat} {s : State} (h : PeriodicTick φ n s) (htick : (inputNow s).tick = true)
    (hn : 0 < n) : s.period % s.cfg.tickBits = φ :=
  of_decide_eq_true ((h.2 0 hn).symm.trans htick)

/-- Between two pulses of the periodic timer there is none. -/
theorem PeriodicTick.quiet {φ n j : Nat} {s : State} (h : PeriodicTick φ n s) (htick : (inputNow s).tick = true)
    (hn : n ≤ s.cfg.tickBits) (h0 : 0 < j) (hj : j < n) : (inputAt s j).tick = false := by
  rw [h.2 j hj, decide_eq_false_iff_not, ← h.phase_eq htick (h0.trans hj)]
  intro hsame
  have hzero : j ≡ 0 [MOD s.cfg.tickBits] := Nat.ModEq.add_left_cancel' s.period hsame
  have hj0 : j = 0 := hzero.eq_of_lt_of_lt (hj.trans_le hn) (by omega)
  omega

/-! ## The obligations -/

/-- Settles O26: the edge of the idle period loads at most the full budget, and from then on each edge in flight takes a
period off the bound that the budget gives. -/
theorem tickReturnsWithinItsBudget : Obligations.TickReturnsWithinItsBudget := by
  intro s h hbreak hmab hp hr
  have hr0 := hr 0 (Nat.succ_pos _)
  obtain ⟨t, he⟩ := h.nextPeriod.edgeOn_completes (inputNow s)
  have hcfg : t.cfg = s.cfg := edgeOn_cfg (s := nextPeriod s) he
  obtain ⟨L, hL, hbusy, hreturns⟩ := (h.nextPeriod.edgeOn hbreak hmab he).exists_busyFor (hcfg ▸ hbreak) (hcfg ▸ hmab)
    (h.busyLeft_idle_edge hp hr0 he) (hr.of_edge he)
  exact ⟨L, hL, fun j hj => runEdges_succ he j ▸ hbusy j hj, runEdges_succ he L ▸ hreturns⟩

/-- Settles O27: `ConfigValid` keeps the bound of O26 below `TICK_BITS`, and from the return on there is no pulse until
the next one is due. -/
theorem noPeriodicTickFindsOneInFlight : Obligations.NoPeriodicTickFindsOneInFlight := by
  intro s φ h hvalid hp htick hperiodic hr
  obtain ⟨hbreak, hmab, -, hticks, -, -, -, hexcess⟩ := hvalid
  have hbound : busyBound s.cfg (budgetBits s.cfg) + 1 ≤ s.cfg.tickBits := by
    unfold busyBound
    omega
  obtain ⟨L, hL, -, t, hrun, hidle⟩ :=
    tickReturnsWithinItsBudget s h (by omega) (by omega) hp (NoReset.mono hr hbound)
  obtain ⟨k, hk⟩ := Nat.exists_eq_add_of_le (show L + 1 ≤ s.cfg.tickBits by omega)
  obtain ⟨-, hinputs⟩ := runEdges_time (NoReset.mono hr (by omega)) hrun
  obtain ⟨u, hshows, hidle', -⟩ := shows_idle_quiet (k := k) hidle
    (fun j hj => hinputs j ▸ hr _ (by omega))
    (fun j hj => hinputs j ▸ hperiodic.quiet htick le_rfl (by omega) (by omega))
  have hrest := hshows.run
  rw [List.length_replicate] at hrest
  have hwhole : runEdges s.cfg.tickBits s = .next u := by rw [hk, runEdges_add, hrun, andThen_next, hrest]
  have hperiod := (runEdges_time hr hwhole).1
  exact ⟨u, hwhole, hidle', hperiod, by rw [hperiod, Nat.add_mod_right, hperiodic.phase_eq htick hticks]⟩

/-- Settles O22: where the cost fits, `Dispatch()` is the selected operation with the cost charged; where it does not,
the tick returns. -/
theorem dispatchStartsWhatFits : Obligations.DispatchStartsWhatFits := by
  intro s h512
  refine ⟨fun h0 hb => ?_, fun h1 hb => ?_, fun h0 hb => ?_, fun h1 hb => ?_⟩
  · exact ⟨dispatch_break h0 hb, dispatch_break h0 hb⟩
  · have hd := dispatch_channel h1 h512 hb
    exact ⟨_, memRead_cursor h1 h512, hd.trans (execChannel_eq h1 h512 { s with budget := s.budget - 11 }).symm, hd⟩
  · exact dispatch_return (by rw [cost_break h0]; exact hb)
  · exact dispatch_return (by rw [cost_channel h1]; exact hb)

/-- Settles O23: an accepted pulse dispatches on the full budget, and `Dispatch()` does with it what O22 says. -/
theorem tickLoadsBudgetAndDispatches : Obligations.TickLoadsBudgetAndDispatches := by
  rintro s full rfl
  refine ⟨budgetBits_eq, execTick_ignored, fun hp hrun h512 => ?_⟩
  have haccept : exec .tick s = dispatch { s with budget := budgetBits s.cfg } := execTick_accepted hp hrun
  refine ⟨haccept, fun h0 hb => ?_, fun h1 hb => ?_, fun hshort => ?_⟩
  · exact haccept.trans (dispatch_break h0 hb)
  · exact ⟨_, memRead_cursor h1 h512, haccept.trans (dispatch_channel h1 h512 hb)⟩
  · exact haccept.trans (dispatch_return hshort)

/-- Settles O24: both edges dispatch, on the budget that is left and on the full budget, and `Dispatch()` does not move
the cursor whose cost it charges. -/
theorem transitionsOfATickAreBackToBack : Obligations.TransitionsOfATickAreBackToBack := by
  intro s t hb hr h
  refine ⟨fun hp hcnt hfits => ?_, fun hp htick hrun hfits => ?_⟩
  · rw [step_slot_end hb hr hp hcnt] at h
    rw [dispatch_frameCursor h] at hfits ⊢
    exact dispatch_starts hfits h
  · obtain ⟨u, hcfg, hd⟩ := edge_accepts_tick hr hp htick ((step_eq_edge hb).symm.trans h) hrun
    rw [dispatch_frameCursor hd, ← hcfg] at hfits ⊢
    exact dispatch_starts hfits hd

/-- Settles O25: a budget of 35 pays for any transition, and below 35 the BREAK due at cursor 0 is never paid for. -/
theorem tickProgressNeedsTheBreakCost : Obligations.TickProgressNeedsTheBreakCost := by
  refine ⟨fun s hb hp hrun h512 => ?_, fun s t k hb hp h0 htx h => ?_⟩
  · obtain ⟨t, hd⟩ := dispatch_completes (s := { s with budget := budgetBits s.cfg }) h512
    have hfits : cost s.frameCursor ≤ budgetBits s.cfg := (cost_le_costBreak _).trans hb
    exact ⟨t, (execTick_accepted hp hrun).trans hd, (dispatch_starts hfits hd).1⟩
  · obtain ⟨-, hidle, hcursor, hline⟩ := runEdges_keeps StuckAtBreak.edge ⟨hb, hp, h0, htx⟩ h
    exact ⟨hidle, hcursor, hline⟩

/-- Settles O37: inside a bit period the divider counts, and at its edge every case answers. -/
theorem stepNeverStops : Obligations.StepNeverStops := by
  intro s h
  by_cases hb : s.baudCnt + 1 < s.cfg.clksPerBit
  · exact ⟨_, step_eq_countClk hb⟩
  · rw [step_eq_edge (bitTick_of_le (Nat.le_of_not_lt hb))]
    exact h.nextPeriod.edgeOn_completes (inputNow s)

/-- Settles O49: a command leaves the line and the phase, and there is nothing else in a period without a pulse. -/
theorem withoutTicksNothingIsSent : Obligations.WithoutTicksNothingIsSent := by
  intro s k hp htx hr hquiet
  obtain ⟨t, ⟨hrun, hwire⟩, hidle, hline⟩ := shows_idle_quiet hp hr hquiet
  rw [htx] at hrun hwire hline
  rw [List.length_replicate] at hrun hwire
  exact ⟨hwire, t, hrun, hidle, hline⟩

/-- Settles O28: the command and the pulse of an idle edge are each an `exec` or nothing. -/
theorem idleStepRunsCommandThenTick : Obligations.IdleStepRunsCommandThenTick := by
  intro s hb hr hp
  rw [step_idle hb hr hp]
  refine ⟨fun hv ht => ?_, fun hv ht => ?_, fun i hv hi => ?_⟩
  · rw [andThen_pulseEdge_quiet ht, commandEdge_none hv]
  · rw [commandEdge_none hv, andThen_next, pulseEdge_tick ht]
  · obtain rfl : decodeCommand (inputNow s).cmdWord = i := Except.ok.inj hi
    rw [commandEdge_valid hv]
    exact ⟨fun ht => andThen_pulseEdge_quiet ht _, fun ht => by rw [pulseEdge_tick ht]⟩

/-- Settles O29: the edge that ends each part of a transition is the operation that starts the next. -/
theorem busyStepRunsSelectedOperation : Obligations.BusyStepRunsSelectedOperation := by
  intro s hb hr
  refine ⟨fun hp hcnt => ?_, fun hp hcnt => ?_, fun hp hcnt => ?_, fun hp hcnt c hc hfits => ?_⟩
  · rw [step_brk hb hr hp, if_neg (by omega)]
    rfl
  · rw [step_mab hb hr hp, if_neg (by omega)]
  · exact slotAdvancesThroughItsByte.1 s hb hr hp hcnt
  · subst hc
    rw [step_slot_end hb hr hp hcnt]
    exact dispatch_eq_exec hfits

end Machine
end Sys2Proof
end

section
/-! PROOFS of the statements of spec/44_control_surface.md: WRITE (R157, R158), SETMAX (R159), SELLINE (R160) and RSVD
(R161), that no command reads or writes the engine's registers (R156), and the handshake in flight (R155). -/

namespace Sys2Proof
namespace Machine

/-! ## Starting the engine (R157, R162) -/

/-- A start keeps the cursor inside the frame. -/
theorem ensureRunning_cursor_le {s : State} (h : s.frameCursor ≤ s.activeChannelCount) :
    (ensureRunning s).frameCursor ≤ (ensureRunning s).activeChannelCount := by
  rw [ensureRunning_frameCursor, ensureRunning_activeChannelCount]
  split
  · exact h
  · exact Nat.zero_le _

/-- A running engine is not started again. -/
theorem ensureRunning_of_running {s : State} (h : s.engineRunning = true) : ensureRunning s = s := if_pos h

/-- Any WRITE leaves the engine running, whatever its channel. -/
theorem execWrite_starts (channel value : Int) (s : State) :
    ∃ t, execWrite channel value s = .next t ∧ t.engineRunning = true := by
  by_cases hc : 1 ≤ channel ∧ channel ≤ 512
  · exact ⟨_, execWrite_inRange hc value s, ensureRunning_engineRunning s⟩
  · exact ⟨_, execWrite_outOfRange hc value s, ensureRunning_engineRunning s⟩

/-! ## WRITE from a cursor inside the frame (R157, R158) -/

/-- Of two writes to one index the second stays. -/
theorem bufferWrite_bufferWrite {m : Memory} {i : Nat} (h : m.wf = true) (hi : i < 512) (v w : Byte) :
    bufferWrite (bufferWrite m i v) i w = bufferWrite m i w := by
  have hv := bufferWfFrom_bufferWrite h (Nat.zero_le i) hi v
  refine buffer_ext (bufferWfFrom_bufferWrite hv (Nat.zero_le i) hi w)
    (bufferWfFrom_bufferWrite h (Nat.zero_le i) hi w) fun a => ?_
  rw [bufferRead_bufferWrite hv, bufferRead_bufferWrite h, bufferRead_bufferWrite h]
  split <;> rfl

/-- A channel number in range selects a slot of the buffer. -/
theorem channelIndex_lt {channel : Int} (h : 1 ≤ channel ∧ channel ≤ 512) : channelIndex channel < 512 := by
  unfold channelIndex
  omega

/-- In range, WRITE starts the engine and writes the slot and the count; the count only grows, so `Normalise()` cannot
fire. -/
theorem execWrite_stores {channel : Int} {s : State} (hcursor : s.frameCursor ≤ s.activeChannelCount)
    (hc : 1 ≤ channel ∧ channel ≤ 512) (value : Int) :
    execWrite channel value s = .next { ensureRunning s with
      channelBuffer := bufferWrite s.channelBuffer (channelIndex channel) (clamp8 value)
      activeChannelCount := max s.activeChannelCount channel.toNat } := by
  have hstarted : (ensureRunning s).frameCursor ≤ s.activeChannelCount :=
    ensureRunning_activeChannelCount s ▸ ensureRunning_cursor_le hcursor
  rw [execWrite_inRange hc]
  exact congrArg Host.Outcome.next (normalise_of_le (hstarted.trans (le_max_left _ _)))

/-- Out of range, WRITE starts the engine and does nothing else. -/
theorem execWrite_only_starts {channel : Int} {s : State} (hcursor : s.frameCursor ≤ s.activeChannelCount)
    (hc : ¬(1 ≤ channel ∧ channel ≤ 512)) (value : Int) : execWrite channel value s = .next (ensureRunning s) := by
  rw [execWrite_outOfRange hc, normalise_of_le (ensureRunning_cursor_le hcursor)]

/-- From a cursor inside the frame the same WRITE once more changes nothing: the engine runs, the slot holds the value,
and the count has grown. -/
theorem execWrite_idempotent {channel value : Int} {s t : State} (hwf : s.channelBuffer.wf = true)
    (hcursor : s.frameCursor ≤ s.activeChannelCount) (h : execWrite channel value s = .next t) :
    execWrite channel value t = .next t := by
  have hcursor' : t.frameCursor ≤ t.activeChannelCount := exec_command_cursor_le (i := .write channel value) rfl h
  by_cases hc : 1 ≤ channel ∧ channel ≤ 512
  · have ht := Host.Outcome.next.inj ((execWrite_stores hcursor hc value).symm.trans h)
    have hrun : t.engineRunning = true := ht ▸ ensureRunning_engineRunning s
    rw [execWrite_running hrun hcursor' hc, ← ht]
    simp only [bufferWrite_bufferWrite hwf (channelIndex_lt hc), max_assoc, max_self]
  · obtain rfl := Host.Outcome.next.inj ((execWrite_only_starts hcursor hc value).symm.trans h)
    rw [execWrite_only_starts hcursor' hc, ensureRunning_of_running (ensureRunning_engineRunning s)]

/-! ## SETMAX (R159) -/

/-- The count that SETMAX sets is the channel number, saturated at 512. -/
theorem saturateCount_eq {channel : Int} (h : 0 < channel) : (saturateCount channel : Int) = min channel 512 := by
  unfold saturateCount
  omega

/-- In an empty frame `Normalise()` leaves the cursor at 0. -/
theorem normalise_cursor_of_empty {s : State} (h : s.activeChannelCount = 0) : (normalise s).frameCursor = 0 := by
  have hle := normalise_cursor_le s
  rw [normalise_activeChannelCount, h] at hle
  exact Nat.le_zero.mp hle

/-- The cursor that SETMAX leaves in a frame of `n` channels. -/
theorem normalise_started_cursor (n : Nat) (s : State) : (normalise (ensureRunning (setCount n s))).frameCursor =
    if s.engineRunning = true ∧ s.frameCursor ≤ n then s.frameCursor else 0 := by
  cases hrun : s.engineRunning
  · simp [hrun]
  · by_cases hle : s.frameCursor ≤ n
    · simp [hrun, hle, not_lt.mpr hle]
    · simp [hrun, hle, not_le.mp hle]

/-! ## The engine's registers under a command (R156) -/

section
variable (budget : Nat) (phase : Phase) (cnt : Nat) (txbyte : Byte) (tx : Level) (s : State)

theorem ensureRunning_withEngine : ensureRunning (withEngine budget phase cnt txbyte tx s) =
    withEngine budget phase cnt txbyte tx (ensureRunning s) := by
  rw [ensureRunning_eq, ensureRunning_eq]
  rfl

/-- A command on other values of the engine's registers is the command, and those values after it. -/
theorem exec_command_withEngine {i : Instr} (hi : isCommand i = true) :
    exec i (withEngine budget phase cnt txbyte tx s) =
      mapNext (withEngine budget phase cnt txbyte tx) (exec i s) := by
  cases i
  case write c v =>
    change execWrite c v _ = mapNext _ (execWrite c v s)
    by_cases hc : 1 ≤ c ∧ c ≤ 512
    · rw [execWrite_inRange hc, execWrite_inRange hc, ensureRunning_withEngine]
      rfl
    · rw [execWrite_outOfRange hc, execWrite_outOfRange hc, ensureRunning_withEngine]
      rfl
  case setmax c =>
    change execSetmax c _ = mapNext _ (execSetmax c s)
    by_cases hc : c ≤ 0
    · rw [execSetmax_stop hc, execSetmax_stop hc]
      rfl
    · rw [execSetmax_set hc, execSetmax_set hc]
      exact congrArg (fun u => Host.Outcome.next (normalise u))
        (ensureRunning_withEngine budget phase cnt txbyte tx (setCount _ s))
  case selline line =>
    change execSelline line _ = mapNext _ (execSelline line s)
    rw [execSelline_eq, execSelline_eq]
    rfl
  case rsvd => rfl
  all_goals exact absurd hi (by simp [isCommand])

end

/-! ## The inputs of a period (R155) -/

/-- A step at the sampling cycle is the edge on the inputs of the period. -/
theorem step_withInputNow {s : State} (hb : bitTick s = true) (i : Inputs) :
    step (withInputNow i s) = edgeOn i (nextPeriod s) := step_eq_edge (s := withInputNow i s) hb

/-- In flight an edge looks at no input but the reset. -/
theorem edgeOn_busy_congr {i j : Inputs} {s : State} (hp : s.phase ≠ .idle) (h : i.rst = j.rst) :
    edgeOn i s = edgeOn j s := by
  unfold edgeOn
  rw [h]
  cases hphase : s.phase with
  | idle => exact absurd hphase hp
  | brk => rfl
  | mab => rfl
  | slot => rfl

/-- Only an idle block accepts a command (R155). -/
theorem idle_of_acceptedCommand {s : State} {i : Instr} (h : acceptedCommand s = some i) : s.phase = .idle := by
  unfold acceptedCommand at h
  split_ifs at h with hr hready
  exact of_decide_eq_true hready

/-! ## The obligations -/

/-- Settles O1: in range the WRITE is a start with one write of the slot and the count, out of range the start alone. -/
theorem writeStoresClampedAndStarts : Obligations.WriteStoresClampedAndStarts := by
  refine ⟨fun w hop => by simpa [hop] using decodeCommand_cases w, fun s channel value hwf hcursor => ?_⟩
  by_cases hc : 1 ≤ channel ∧ channel ≤ 512
  · have hwrite := execWrite_stores hcursor hc value
    refine ⟨_, hwrite, ensureRunning_engineRunning s, ensureRunning_frameCursor s,
      fun _ => ⟨?index, ⟨clamp8 value, ?slot, ?clamp⟩, ?others, ?count⟩, fun hnot => absurd hc hnot,
      ensureRunning_outputBinding s, by simp [SameEngine], by simp [SameWorld], execWrite_idempotent hwf hcursor hwrite⟩
    case index => unfold channelIndex; omega
    case slot => rw [memRead_eq, if_pos (channelIndex_lt hc), bufferRead_bufferWrite hwf, if_pos rfl]
    case clamp => rw [clamp8_toNat]; split_ifs <;> omega
    case others =>
      intro a ha
      rw [memRead_eq, memRead_eq, bufferRead_bufferWrite hwf, if_neg ha]
    case count => push_cast; omega
  · have hwrite := execWrite_only_starts hcursor hc value
    exact ⟨_, hwrite, ensureRunning_engineRunning s, ensureRunning_frameCursor s, fun hin => absurd hin hc,
      fun _ => ⟨memRead_congr (ensureRunning_channelBuffer s), ensureRunning_activeChannelCount s⟩,
      ensureRunning_outputBinding s, by simp [SameEngine], by simp [SameWorld], execWrite_idempotent hwf hcursor hwrite⟩

/-- Settles O2: at most 0 the engine stops in an empty frame, above it the count is set first and the engine started
where it was stopped. -/
theorem setmaxStopsOrSetsTheCount : Obligations.SetmaxStopsOrSetsTheCount := by
  refine ⟨fun w hop => by simpa [hop] using decodeCommand_cases w, fun s channel => ?_⟩
  by_cases hc : channel ≤ 0
  · exact ⟨_, execSetmax_stop hc s,
      fun _ => ⟨rfl, rfl, normalise_cursor_of_empty rfl, fun c v => execWrite_starts c v _⟩,
      fun hpos => absurd hpos (not_lt.mpr hc), memRead_congr rfl, rfl, by simp [SameEngine], by simp [SameWorld]⟩
  · have hsat := saturateCount_eq (not_le.mp hc)
    refine ⟨_, execSetmax_set hc s, fun hstop => absurd hstop hc, fun _ => ⟨by simp, by simpa using hsat, ?_⟩,
      memRead_congr (by simp), by simp, by simp [SameEngine], by simp [SameWorld]⟩
    rw [normalise_started_cursor, ← hsat]
    simp only [Nat.cast_le]

/-- Settles O3: the new cursor is the old one or 0, so `Normalise()` cannot fire; and an idle line is high. -/
theorem sellineRebindsAndRestarts : Obligations.SellineRebindsAndRestarts := by
  refine ⟨fun w hop => by simpa [hop] using decodeCommand_cases w, fun s line hcursor => ?_, fun s line hinv h => ?_⟩
  · have hle : (if s.engineRunning then 0 else s.frameCursor) ≤ s.activeChannelCount := by split <;> omega
    exact ⟨_, (execSelline_eq line s).trans (congrArg Host.Outcome.next (normalise_of_le hle)),
      rfl, rfl, rfl, rfl, rfl, memRead_congr rfl, by simp [SameEngine], by simp [SameWorld]⟩
  · have hp := idle_of_acceptedCommand h
    exact ⟨hp, (hinv.idleLine hp).1⟩

/-- Settles O6: a command keeps the engine's registers, and commutes with setting them. -/
theorem commandsIgnoreEngineRegisters : Obligations.CommandsIgnoreEngineRegisters := by
  intro s i budget phase cnt txbyte tx hi
  refine ⟨fun t h => ?_, exec_command_withEngine budget phase cnt txbyte tx s hi⟩
  obtain ⟨u, hu, hengine, -⟩ := exec_command hi s
  exact Host.Outcome.next.inj (hu.symm.trans h) ▸ hengine

/-- Settles O30: the edge is the only place that looks at the inputs, and in flight it looks at the reset alone. -/
theorem inFlightStepIgnoresHostAndTick : Obligations.InFlightStepIgnoresHostAndTick := by
  refine ⟨fun s => decide_eq_true_iff, fun s i j hb hp hrst => ?_⟩
  rw [step_withInputNow hb, step_withInputNow hb]
  exact edgeOn_busy_congr (s := nextPeriod s) hp hrst

/-- Settles O4: RSVD is `Normalise()` alone, which cannot fire where the cursor is inside the frame. -/
theorem rsvdChangesNothing : Obligations.RsvdChangesNothing := by
  refine ⟨fun w hop => by simpa [hop] using decodeCommand_cases w, fun s hcursor => ?_⟩
  exact (execRsvd_eq s).trans (congrArg Host.Outcome.next (normalise_of_le hcursor))

end Machine
end Sys2Proof
end

section
/-! PROOFS of the statements of spec/60_exceptions.md: the stopped engine, what wakes it and that the block is silent
until then (R192). -/

namespace Sys2Proof
namespace Machine

/-! ## What wakes a stopped engine (R157, R159, R192) -/

/-- After SETMAX the engine runs exactly where the channel number is at least 1, whether it ran before or not. -/
theorem execSetmax_running_iff {channel : Int} {s t : State} (h : execSetmax channel s = .next t) :
    t.engineRunning = true ↔ 1 ≤ channel := by
  by_cases hc : channel ≤ 0
  · obtain rfl := Host.Outcome.next.inj ((execSetmax_stop hc s).symm.trans h)
    exact iff_of_false Bool.false_ne_true (by omega)
  · obtain rfl := Host.Outcome.next.inj ((execSetmax_set hc s).symm.trans h)
    exact iff_of_true (ensureRunning_engineRunning _) (by omega)

/-- After any WRITE the engine runs. -/
theorem execWrite_leaves_running {channel value : Int} {s t : State} (h : execWrite channel value s = .next t) :
    t.engineRunning = true := by
  obtain ⟨u, hu, hrun⟩ := execWrite_starts channel value s
  exact Host.Outcome.next.inj (hu.symm.trans h) ▸ hrun

/-! ## The silence of a stopped block (R192, R211) -/

/-- A stopped engine ignores the pulse. -/
theorem pulseEdge_stopped {s : State} (hrun : s.engineRunning = false) (i : Inputs) : pulseEdge i s = .next s := by
  cases ht : i.tick with
  | false => exact pulseEdge_quiet ht s
  | true => exact (congrFun (pulseEdge_tick ht) s).trans (execTick_ignored (.inr hrun))

/-- Without reset and command the edge of a stopped idle block only moves on time, pulse or no pulse. -/
theorem edge_stopped {s : State} (hrun : s.engineRunning = false) (hp : s.phase = .idle)
    (hr : (inputNow s).rst = false) (hv : (inputNow s).cmdValid = false) : edge s = .next (nextPeriod s) := by
  rw [edge, edgeOn_idle hr (s := nextPeriod s) hp, idleEdge, commandEdge_none hv, andThen_next]
  exact pulseEdge_stopped (s := nextPeriod s) hrun (inputNow s)

/-- Periods of a stopped idle block without reset and command hold the line and change nothing but the time. The
divider is 0 after an edge and as before after none. -/
theorem shows_stopped {k : Nat} {s : State} (hrun : s.engineRunning = false) (hp : s.phase = .idle)
    (hr : NoReset k s) (hv : NoCommand k s) :
    ∃ divider, Shows (List.replicate k s.tx) s { afterPeriods k s with baudCnt := divider } := by
  induction k generalizing s with
  | zero => exact ⟨s.baudCnt, Shows.nil s⟩
  | succ k ih =>
    have hedge := edge_stopped hrun hp (hr 0 (Nat.succ_pos k)) (hv 0 (Nat.succ_pos k))
    have hquiet : NoCommand k (nextPeriod s) := fun j hj =>
      (inputAt_nextPeriod s j).symm ▸ hv (j + 1) (Nat.succ_lt_succ hj)
    obtain ⟨divider, hrest⟩ := ih (s := nextPeriod s) hrun hp (hr.of_edge hedge) hquiet
    have htime : afterPeriods k (nextPeriod s) = afterPeriods (k + 1) s := afterPeriods_nextPeriod k s.cnt s.tx s
    rw [htime] at hrest
    exact ⟨divider, hrest.cons hedge⟩

/-! ## The obligations -/

/-- Settles O8: a WRITE starts the engine, a SETMAX by the sign of its channel number, and no other command writes the
running flag. -/
theorem whatWakesAStoppedEngine : Obligations.WhatWakesAStoppedEngine := by
  intro s t i hi hstopped h
  constructor
  · intro hrun
    obtain hwrite | ⟨channel, rfl⟩ | ⟨-, hkept⟩ := exec_command_count_running hi h
    · exact .inl hwrite
    · exact .inr ⟨channel, (execSetmax_running_iff h).mp hrun, rfl⟩
    · simp [hkept, hstopped] at hrun
  · rintro (⟨channel, value, rfl⟩ | ⟨channel, hc, rfl⟩)
    · exact execWrite_leaves_running h
    · exact (execSetmax_running_iff h).mpr hc

/-- Settles O35: every edge only moves on time, so the line stays high and no register changes. -/
theorem stoppedBlockStaysSilent : Obligations.StoppedBlockStaysSilent := by
  intro s k hrun hp htx hr hv
  obtain ⟨divider, hruns, hwire⟩ := shows_stopped hrun hp hr hv
  rw [htx, List.length_replicate] at hruns hwire
  exact ⟨hwire, _, hruns, ⟨rfl, rfl, rfl, rfl⟩, ⟨rfl, rfl, rfl, rfl, rfl⟩, rfl, rfl⟩

end Machine
end Sys2Proof
end

section
/-! PROOFS of the statements of spec/30_encoding.md: the decoder and the encoder undo each other on well-formed
operations (R70, R74 to R79), and words written out. -/

namespace Sys2Proof

/-! ## The eleven levels of a slot (R70) -/

/-- Bit `k` of a slot's word is the level of the slot's period `10 - k`. -/
theorem slotWord_getLsbD (b : Byte) {k : Nat} (hk : k < 11) :
    (slotWord b).getLsbD k = Machine.slotLevel b (10 - k) := by
  interval_cases k <;> exact BitVec.getLsbD_ofBoolListLE

/-- Data bit `k` of the byte is bit `9 - k` of the eleven levels. -/
theorem slotByte_getLsbD (w : BitVec 11) {k : Nat} (hk : k < 8) : (slotByte w).getLsbD k = w.getLsbD (9 - k) := by
  interval_cases k <;> exact BitVec.getLsbD_ofBoolListLE

/-- Reading the byte off eleven levels with start bit and both stop bits loses nothing. -/
theorem slotWord_slotByte {w : BitVec 11} (hstart : w.getLsbD 10 = false) (hstop1 : w.getLsbD 1 = true)
    (hstop0 : w.getLsbD 0 = true) : slotWord (slotByte w) = w := by
  apply BitVec.eq_of_getLsbD_eq
  intro k hk
  rw [slotWord_getLsbD _ hk, Machine.slotLevel]
  split
  · obtain rfl : k = 10 := by omega
    exact hstart.symm
  · split
    · rw [slotByte_getLsbD w (by omega)]
      congr 1
      omega
    · obtain rfl | rfl : k = 0 ∨ k = 1 := by omega
      · exact hstop0.symm
      · exact hstop1.symm

/-- The decoder accepts the eleven levels of a slot and reads the byte the slot carries. -/
theorem decodeSlot_slotWord (b : Byte) : decodeSlot (slotWord b) = .ok (.sendbyte b) := by
  rw [decodeSlot, slotByte_slotWord, slotWord_getLsbD b (by omega), slotWord_getLsbD b (by omega),
    slotWord_getLsbD b (by omega)]
  rfl

/-- The decoder accepts no other eleven levels. -/
theorem eq_slotWord_of_decodeSlot {w : BitVec 11} {i : Instr} (h : decodeSlot w = .ok i) :
    ∃ b, w = slotWord b ∧ i = .sendbyte b := by
  unfold decodeSlot at h
  split at h
  · cases h
  · next hstart =>
    split at h
    · next hstop =>
      obtain ⟨hstop1, hstop0⟩ := Bool.and_eq_true_iff.mp hstop
      have hword := slotWord_slotByte (Bool.eq_false_of_not_eq_true hstart) hstop1 hstop0
      exact ⟨slotByte w, hword.symm, (Except.ok.inj h).symm⟩
    · cases h

/-! ## The cursor (R79) -/

/-- The word of the transition a cursor value selects is that value. -/
theorem encode_selectTransition (cursor : Nat) :
    encode (selectTransition cursor) = .cursor (BitVec.ofNat 10 cursor) := by
  unfold selectTransition
  split
  · next hzero => rw [hzero]; rfl
  · rfl

/-- A cursor value up to 512 selects BREAK or the channel of a slot of the buffer. -/
theorem selectTransition_wellFormed {cursor : Nat} (h : cursor ≤ Config.nChannels) :
    (selectTransition cursor).wellFormed = true := by
  unfold selectTransition
  split
  · rfl
  · next hzero => exact decide_eq_true ⟨Nat.one_le_iff_ne_zero.mpr hzero, h⟩

/-- A cursor word decodes exactly up to 512, to the transition its value selects. -/
theorem decode_cursor_eq_ok_iff {c : BitVec 10} {i : Instr} :
    decode (.cursor c) = .ok i ↔ c.toNat ≤ Config.nChannels ∧ selectTransition c.toNat = i := by
  by_cases hc : c.toNat ≤ Config.nChannels <;> simp [decode, hc]

/-- A channel number that selects a slot of the buffer fits the cursor word and comes back from it. -/
theorem decode_encode_channel {k : Nat} (h1 : 1 ≤ k) (h512 : k ≤ 512) :
    decode (encode (.channel k)) = .ok (.channel k) := by
  have hfits : (BitVec.ofNat 10 k).toNat = k := Nat.mod_eq_of_lt (by omega)
  refine decode_cursor_eq_ok_iff.mpr ⟨?_, ?_⟩
  · rw [hfits]; exact h512
  · rw [hfits]; exact if_neg (by omega)

/-! ## The level and the pulse (R79) -/

/-- The word of a level holds that level. -/
theorem ofBool_getLsbD_zero (l : BitVec 1) : BitVec.ofBool (l.getLsbD 0) = l := by
  revert l
  decide

/-- Only a pulse is an event. -/
theorem decode_event_eq_ok_iff {t : BitVec 1} {i : Instr} : decode (.event t) = .ok i ↔ t = 1#1 ∧ i = .tick := by
  obtain rfl | rfl : t = 0#1 ∨ t = 1#1 := t.eq_zero_or_eq_one
  · simp [decode]
  · simp [decode, eq_comm]

/-! ## Command words (R74 to R78) -/

/-- A word put together with the code of WRITE holds WRITE, with both fields as integers. -/
theorem decodeCommand_write (a v : BitVec 16) : decodeCommand (cmdWord 0b00#2 a v) = .write (sint16 a) (sint16 v) := by
  simpa [cmdOp_cmdWord, cmdA_cmdWord, cmdV_cmdWord] using Machine.decodeCommand_cases (cmdWord 0b00#2 a v)

/-- A word put together with the code of SETMAX holds SETMAX; the field `v` is ignored. -/
theorem decodeCommand_setmax (a v : BitVec 16) : decodeCommand (cmdWord 0b01#2 a v) = .setmax (sint16 a) := by
  simpa [cmdOp_cmdWord, cmdA_cmdWord] using Machine.decodeCommand_cases (cmdWord 0b01#2 a v)

/-- A word put together with the code of SELLINE holds SELLINE; the field `v` is ignored. -/
theorem decodeCommand_selline (a v : BitVec 16) : decodeCommand (cmdWord 0b10#2 a v) = .selline a := by
  simpa [cmdOp_cmdWord, cmdA_cmdWord] using Machine.decodeCommand_cases (cmdWord 0b10#2 a v)

/-- Every command word holds a well-formed command: the converted operands are in range (R77, R78). -/
theorem decodeCommand_wellFormed (w : CmdWord) : (decodeCommand w).wellFormed = true := by
  obtain ⟨-, hw⟩ | ⟨-, hw⟩ | ⟨-, hw⟩ | ⟨-, hw⟩ := Machine.decodeCommand_cases w
  all_goals rw [hw]
  · exact decide_eq_true ⟨sint16_isSint16 _, sint16_isSint16 _⟩
  · exact decide_eq_true (sint16_isSint16 _)
  · rfl
  · rfl

/-! ## The obligations -/

/-- Settles O45: row by row; the operands of a command and a channel number come back because they are in range, the
byte of a slot at every value. -/
theorem decodeOfEncodeIsTheOperation : Obligations.DecodeOfEncodeIsTheOperation := by
  intro i hi
  cases i with
  | write channel value =>
    obtain ⟨hchannel, hvalue⟩ := of_decide_eq_true hi
    rw [encode, decode, decodeCommand_write, sint16_ofInt hchannel, sint16_ofInt hvalue]
  | setmax channel => rw [encode, decode, decodeCommand_setmax, sint16_ofInt (of_decide_eq_true hi)]
  | selline line => rw [encode, decode, decodeCommand_selline]
  | rsvd => rfl
  | brk => rfl
  | channel k =>
    obtain ⟨h1, h512⟩ := of_decide_eq_true hi
    exact decode_encode_channel h1 h512
  | sendbyte b => exact decodeSlot_slotWord b
  | setline level => cases level <;> rfl
  | tick => rfl

/-- Settles O46: format by format; a cursor value, eleven levels, a level and a pulse have no ignored bits. -/
theorem encodeOfDecodeIsTheWord : Obligations.EncodeOfDecodeIsTheWord := by
  intro o i h
  cases o with
  | command w =>
    obtain rfl := Except.ok.inj h
    exact ⟨decodeCommand_wellFormed w, .inr ⟨w, rfl⟩⟩
  | cursor c =>
    obtain ⟨hc, rfl⟩ := decode_cursor_eq_ok_iff.mp h
    refine ⟨selectTransition_wellFormed hc, .inl ?_⟩
    rw [encode_selectTransition, BitVec.ofNat_toNat, BitVec.setWidth_eq]
  | slot w =>
    obtain ⟨b, rfl, rfl⟩ := eq_slotWord_of_decodeSlot h
    exact ⟨rfl, .inl rfl⟩
  | level l =>
    obtain rfl := Except.ok.inj h
    exact ⟨rfl, .inl (congrArg OpWord.level (ofBool_getLsbD_zero l))⟩
  | event t =>
    obtain ⟨rfl, rfl⟩ := decode_event_eq_ok_iff.mp h
    exact ⟨rfl, .inl rfl⟩

/-- Settles O48: the decoder evaluated on the fourteen words. -/
theorem writtenOutWordsDecode : Obligations.WrittenOutWordsDecode := by
  unfold Obligations.WrittenOutWordsDecode
  decide

end Sys2Proof
end

section
/-! PROOFS of the statement about what a reset leaves alone: the parameters and the time of the outside world
(spec/00_scope.md section 7 item 2; log entry 9). -/

namespace Sys2Proof
namespace Machine

/-- At the edge that ends a bit period `rst = 1` resets the registers, and the next period's inputs are current (R34,
R210). -/
theorem step_rst {s : State} (hb : bitTick s = true) (hr : (inputNow s).rst = true) :
    step s = .next (resetRegisters (nextPeriod s)) := by
  rw [step_eq_edge hb, edge, edgeOn_rst hr]

/-- Settles O50: the reset writes registers only, and neither the parameters nor the outside world is one. -/
theorem resetKeepsParametersAndTime : Obligations.ResetKeepsParametersAndTime := by
  intro s t hb hr h
  obtain rfl := Host.Outcome.next.inj ((step_rst hb hr).symm.trans h)
  exact ⟨resetRegisters_cfg _, resetRegisters_period _, resetRegisters_inputs _⟩

end Machine
end Sys2Proof
end
